-- ==== Sys2Proof/Word.lean ====
section
/-!
DEFINITION. The word types of the ETU's ports and registers (spec/00_scope.md R9, R10).
-/
namespace Sys2Proof

/-- A command byte, `wdata[7:0]` (30_encoding.md R80). -/
abbrev Byte := BitVec 8

/-- A word of the host's register port and of the 32-bit registers (20_memory.md R60, R61). -/
abbrev Word := BitVec 32

/-- A 64-bit result register, read unsigned (`TIME`) or as two's complement (`DIST`, `DIST1`, `SPEED`) (R10). -/
abbrev Long := BitVec 64

/-- A 48-bit register of counter ticks (10_state.md R34 to R36). -/
abbrev TickReg := BitVec 48

/-- A byte offset into the register space (20_memory.md R60, port `addr`). -/
abbrev Offset := BitVec 7

end Sys2Proof
end

