-- ==== Sys2Proof/Config.lean ====
section
/-!
DEFINITION. What is fixed for one machine (the parameters of spec/00_scope.md R5), the inputs that reach it from outside,
and the one free value: which input comes next when nobody has placed one (spec/93_implementation_defined.md U15, U16).
-/
namespace Sys2Proof

/-- Parameter `N`, the width of the hardware counter: 8 or 16 bits (R5; 92_eei_decisions.md D3). -/
inductive CounterWidth where
  | w8
  | w16
  deriving DecidableEq, Repr

/-- The parameters a model takes as arguments (R5; 92_eei_decisions.md section 2). They are not state (10_state.md R56);
`State.params` carries them and no step writes it (DESIGN CHOICE, safe: log 1). Their legal values are
`Params.wellFormed`. -/
structure Params where
  /-- `N`, the width of `CNT`. -/
  width : CounterWidth
  /-- `SOS`, the speed of sound in millimetres per second. -/
  sos : Word
  /-- `DT_US`, the gap between the two samples of MSPEED in microseconds. -/
  dtUs : Word
  /-- `TRIG_US`, the length of the trigger pulse in microseconds. -/
  trigUs : Nat
  deriving DecidableEq, Repr

/-- One access of the host at the register port: `re` or `we`, never both (20_memory.md R60). -/
inductive HostAccess where
  | read (off : Offset)
  | write (off : Offset) (wdata : Word)
  deriving DecidableEq, Repr, Inhabited

/-- What happens next to the block: one step of one agent (R7), or the assertion of `rst` (70_reset_and_hazards.md R200).
`ENV` has no state and no step of its own that the block could see: the level it drives on `echo_in` is the argument of
the `SEQ` step (41_ranging_ops.md R147), `true` = active = 1. -/
inductive Event where
  | tick
  | ovh
  | seq (echo : Bool)
  | host (a : HostAccess)
  | reset
  deriving DecidableEq, Repr, Inhabited

/-- FREE VALUE (log 3): the k-th input of a run in which nobody has placed inputs. It has no body, so no proof can see
what it is: any interleaving of the agents, any accesses of the host, any echo levels (93 U15, U16). -/
opaque Config.freeEvent : Nat → Event

end Sys2Proof
end

