-- ==== Sys2Proof/Syntax.lean ====
section
/-!
DEFINITION. The five commands of the ETU (spec/30_encoding.md R80), one constructor per row of spec/opcode_table.json.
-/
namespace Sys2Proof

/-- A command of the block. The operands that are registers (`CLKHZ`, `DURATION`, `TIMEOUT`) are not part of the command
byte; the only field is the prescaler select of CONFIGURE (R80). -/
inductive Instr where
  /-- `configure(clockFrequencyHz, prescalerDivisor)`, byte `0ppp0001` (R120). -/
  | configure (ps : BitVec 3)
  /-- `currentTime()`, byte `0x02` (R123). -/
  | rdtime
  /-- `delay(duration)`, byte `0x03` (R125). -/
  | delay
  /-- `measureDistance(timeoutMicroseconds)`, byte `0x04` (R141). -/
  | measure
  /-- `measureSpeed(timeoutMicroseconds)`, byte `0x05` (R155). -/
  | mspeed
  deriving DecidableEq, Repr

end Sys2Proof
end

