-- ==== Sys2Proof/WellFormed.lean ====
section
/-!
DEFINITION. What makes a command byte and a set of parameters legal (spec/30_encoding.md R80, R83; spec/00_scope.md R5).
-/
namespace Sys2Proof

/-- A row of the command table of R80: a byte belongs to the row when `byte AND mask = pattern`. -/
structure CommandRow where
  pattern : Byte
  mask : Byte
  deriving DecidableEq, Repr

/-- The table of R80 (spec/opcode_table.json), in its order. -/
def commandTable : List CommandRow :=
  [⟨0x01#8, 0x8F#8⟩, ⟨0x02#8, 0xFF#8⟩, ⟨0x03#8, 0xFF#8⟩, ⟨0x04#8, 0xFF#8⟩, ⟨0x05#8, 0xFF#8⟩]

/-- The byte matches the row (R80). -/
def CommandRow.selects (r : CommandRow) (b : Byte) : Bool := b &&& r.mask == r.pattern

/-- The byte is a command: some row of R80 selects it (R83 calls every other byte illegal). -/
def legalByte (b : Byte) : Bool := commandTable.any (·.selects b)

/-- The row of R80 that an instruction belongs to. -/
def Instr.row : Instr → CommandRow
  | .configure _ => ⟨0x01#8, 0x8F#8⟩
  | .rdtime => ⟨0x02#8, 0xFF#8⟩
  | .delay => ⟨0x03#8, 0xFF#8⟩
  | .measure => ⟨0x04#8, 0xFF#8⟩
  | .mspeed => ⟨0x05#8, 0xFF#8⟩

/-- An instruction is well formed when its row is a row of the table. The type of its one field already holds exactly the
eight selects of R82, so there is no term of `Instr` this check refuses; the checks with something to refuse are
`legalByte` and `Params.wellFormed`. -/
def Instr.wellFormed (i : Instr) : Bool := commandTable.contains i.row

/-- The legal values of R5: `DT_US` is at least 1 and `TRIG_US` is at least 1. (`N` and `SOS` have no illegal value in
their types.) -/
def Params.wellFormed (p : Params) : Bool := p.dtUs != 0#32 && decide (1 ≤ p.trigUs)

end Sys2Proof
end

