-- ==== Sys2Proof/Decode.lean ====
section
/-!
DEFINITION. The decoder of command bytes, total on all 256 and rejecting by name, and the encoder
(spec/30_encoding.md R80 to R83).
-/
namespace Sys2Proof

/-- Why a byte is no command (R83). -/
inductive DecodeError where
  /-- `b[7] = 1`. -/
  | topBitSet
  /-- `opc` is 0: the byte 0x00, and by R82 and the last arm of R81 also 0x10 to 0x70 (DEDUCED, safe: log 11). -/
  | opcodeZero
  /-- `opc` is 6 or more. -/
  | opcodeReserved
  /-- `opc` is 2 to 5 with `ps ≠ 0`. -/
  | selectNotZero
  deriving DecidableEq, Repr

/-- What a byte decodes to: a command, or a named reason why it is none (R81, R83). -/
inductive Decoded where
  | command (i : Instr)
  | illegal (why : DecodeError)
  deriving DecidableEq, Repr

/-- The field `opc = b[3:0]` (R80). -/
def opcodeField (b : Byte) : BitVec 4 := b.extractLsb' 0 4

/-- The field `ps = b[6:4]` (R80). -/
def selectField (b : Byte) : BitVec 3 := b.extractLsb' 4 3

/-- The bit `b[7]`, which every command has 0 (R80). -/
def topBit (b : Byte) : Bool := b.getLsbD 7

/-- The command whose opcode is `opc` and which takes no prescaler select. -/
def plainCommand (opc : BitVec 4) : Option Instr :=
  if opc = 2#4 then some .rdtime
  else if opc = 3#4 then some .delay
  else if opc = 4#4 then some .measure
  else if opc = 5#4 then some .mspeed
  else none

/-- The command a byte stands for, or the reason it stands for none (R80, R81, R83). -/
def decode (b : Byte) : Decoded :=
  if topBit b then .illegal .topBitSet
  else if opcodeField b = 0#4 then .illegal .opcodeZero
  else if opcodeField b = 1#4 then .command (.configure (selectField b))
  else match plainCommand (opcodeField b) with
    | none => .illegal .opcodeReserved
    | some i => if selectField b = 0#3 then .command i else .illegal .selectNotZero

/-- The command byte inside a word written to `CMD`: `wdata[7:0]`; `wdata[31:8]` is ignored (20_memory.md R63; R83). -/
def commandByte (v : Word) : Byte := v.extractLsb' 0 8

/-- The opcode of a command (R80). -/
def Instr.opcode : Instr → BitVec 4
  | .configure _ => 1#4
  | .rdtime => 2#4
  | .delay => 3#4
  | .measure => 4#4
  | .mspeed => 5#4

/-- The prescaler select a command carries; 0 in every command but CONFIGURE (R80). -/
def Instr.select : Instr → BitVec 3
  | .configure ps => ps
  | _ => 0#3

/-- The byte of a command: `b[7] = 0`, `b[6:4] = ps`, `b[3:0] = opc` (R80). -/
def encode (i : Instr) : Byte := (0#1 ++ i.select) ++ i.opcode

/-- The host's question: the command read from an instruction whose bits are `w`. A command is one byte, so it is the low
eight of the `nbits` given. -/
def decodeTableWord (nbits w : Nat) : Option Instr :=
  match decode (BitVec.ofNat 8 (w % 2 ^ nbits)) with
  | .command i => some i
  | .illegal _ => none

end Sys2Proof
end

