-- ==== Sys2Proof/Machine/State.lean ====
section
/-!
DEFINITION. The state of the ETU: the 30 items of spec/10_state.md R20 (`Block`), the model's own fields beside them
(`State`), the reasons a step can stop, and the state after reset (R54).
-/
namespace Sys2Proof.Machine

/-- `PS`, the prescaler select bits (R24): stopped, or one of the five divisors of R85. The codes 6 and 7 are never held
(R24; 93 U18), so the type has no name for them (log 13). -/
inductive Prescaler where
  | stopped
  | div1
  | div8
  | div64
  | div256
  | div1024
  deriving DecidableEq, Repr

/-- `OP`, the last command accepted without error (R31), 0 to 5; 6 and 7 never occur (R86, log 13). -/
inductive Op where
  | none
  | configure
  | rdtime
  | delay
  | measure
  | mspeed
  deriving DecidableEq, Repr

/-- `SITE`, the position of the sequencer (R40): the twenty sites of R88, in the order of their codes 0 to 19. The codes
20 to 31 never occur (log 13). -/
inductive Site where
  | idle
  | ct
  | dlRst
  | dl
  | trigOn
  | tpRst
  | tp
  | trigOff
  | ref
  | rPin
  | r
  | start
  | fPin
  | f
  | endRead
  | done
  | timedOut
  | gapRst
  | gap
  | speed
  deriving DecidableEq, Repr

/-- `RES`, what the last command that set `BUSY` produced (R44), 0 to 3. -/
inductive Res where
  | none
  | valid
  | timeout
  | indet
  deriving DecidableEq, Repr

/-- `ERR`, the outcome of the last `CMD` write that was not ignored (R46, R180), 0 to 5; 6 and 7 never occur (log 13). -/
inductive Err where
  | none
  | cfgPrescaler
  | cfgClock
  | cfgAgain
  | notConfigured
  | illegalCmd
  deriving DecidableEq, Repr

/-- The whole state of the block: the 30 items of R20 and nothing else. A one-bit item is a `Bool`, `true` = 1. -/
structure Block where
  /-- `CNT`, N bits, held in 16; with N = 8 the top eight are 0 (R21, log 9). -/
  cnt : BitVec 16
  /-- `OVF` (R22). -/
  ovf : Word
  /-- `CLKHZ`, hertz (R23). -/
  clkhz : Word
  /-- `PS` (R24). -/
  ps : Prescaler
  /-- `OVP`, the overflow request pending (R25). -/
  ovp : Bool
  /-- `OIE`, the overflow interrupt enable (R26). -/
  oie : Bool
  /-- `CFGD`, CONFIGURE has succeeded (R27). -/
  cfgd : Bool
  /-- `DURATION`, microseconds (R28). -/
  duration : Word
  /-- `TIMEOUT`, microseconds (R29). -/
  timeout : Word
  /-- `BUSY` (R30). -/
  busy : Bool
  /-- `OP` (R31). -/
  op : Op
  /-- `SAMPLE`, the second sample of MSPEED (R32). -/
  sample : Bool
  /-- `O1`, the first read of `OVF` (R33). -/
  o1 : Word
  /-- `C1`, the read of `CNT`, N bits held in 16 (R33, log 9). -/
  c1 : BitVec 16
  /-- `REF`, ticks (R34). -/
  refT : TickReg
  /-- `START`, ticks (R35). -/
  startT : TickReg
  /-- `END`, ticks (R36). -/
  endT : TickReg
  /-- `TIME`, microseconds, unsigned (R37). -/
  time : Long
  /-- `DIST`, micrometres, signed (R38). -/
  dist : Long
  /-- `DIST1`, micrometres, signed (R39). -/
  dist1 : Long
  /-- `SITE` (R40). -/
  site : Site
  /-- `RP`, the step of the paired read (R41). -/
  rp : BitVec 2
  /-- `SPEED`, micrometres per second, signed (R43). -/
  speed : Long
  /-- `RES` (R44). -/
  res : Res
  /-- `TOK`, which wait timed out last: `true` = the fall wait (R45). -/
  tok : Bool
  /-- `ERR` (R46). -/
  err : Err
  /-- `F_LOST` (R47). -/
  fLost : Bool
  /-- `F_OVFWRAP` (R47). -/
  fOvfwrap : Bool
  /-- `F_RANGE` (R47). -/
  fRange : Bool
  /-- `TRIG`, the level of `trig_out` (R48). -/
  trig : Bool
  deriving DecidableEq, Repr

/-- The block, its parameters, and the model's own record of what the outside world does to it. -/
structure State where
  /-- The 30 items of R20. -/
  blk : Block
  /-- The parameters of R5; no step writes them (log 1). -/
  params : Params
  /-- The inputs placed so far, oldest first; a step takes the head (log 3). -/
  events : List Event
  /-- How many free inputs have been drawn: the argument of the next `Config.freeEvent` (log 3). -/
  drawn : Nat
  /-- The word the last `RegRead` returned on port `rdata`; no rule reads it (log 6). -/
  rdata : Word
  deriving DecidableEq, Repr

/-- Reasons the machine stops with a fault. There is none: "The block raises nothing" (00_scope.md R11), and the sticky
fault bits "stop nothing" (60_exceptions.md R184, log 12). -/
inductive Fault where
  deriving DecidableEq, Repr

/-- Reasons a step has no meaning. Every one but the first is raised by a `SEQ` step in a state that no run from reset
reaches (10_state.md R55; 93 U18: "refuse a start state that holds one"), and is safe (log 10). -/
inductive Refusal where
  /-- Raised by an arm of exec whose instruction has no meaning yet (none is left). Safe. -/
  | notModelled (mnemonic : String)
  /-- Raised by `seqStep` with `BUSY = 1` at `S_IDLE`, where no step is given (R88). Safe. -/
  | busyAtIdle
  /-- Raised by `readPair` at a reading site with `RP = 0` (R107 gives steps 1 to 3). Safe. -/
  | readWithoutStep
  /-- Raised by a conversion or a comparison while `PS = 0` selects no divisor (R85). Safe. -/
  | noDivisor
  /-- Raised by a conversion while `CLKHZ = 0`, which no rule divides by (R10, R113). Safe. -/
  | zeroClock
  /-- Raised by `S_SPEED` when the parameter `DT_US` is 0, which is no legal value (R5, R113). Safe. -/
  | zeroGap
  deriving DecidableEq, Repr

/-- The block after reset: every item 0 but `TIMEOUT`, which is 30000 (R54). -/
def Block.reset : Block where
  cnt := 0#16
  ovf := 0#32
  clkhz := 0#32
  ps := .stopped
  ovp := false
  oie := false
  cfgd := false
  duration := 0#32
  timeout := 30000#32
  busy := false
  op := .none
  sample := false
  o1 := 0#32
  c1 := 0#16
  refT := 0#48
  startT := 0#48
  endT := 0#48
  time := 0#64
  dist := 0#64
  dist1 := 0#64
  site := .idle
  rp := 0#2
  speed := 0#64
  res := .none
  tok := false
  err := .none
  fLost := false
  fOvfwrap := false
  fRange := false
  trig := false

/-- The parameter values the spec uses unless a vector says otherwise (R5; DESIGN CHOICE of the reset state, log 2). -/
def defaultParams : Params := ⟨.w16, 343000#32, 1000000#32, 10⟩

/-- The machine right after reset: the block of R54, the spec's parameter values, no input placed, none drawn, nothing read
(log 2, 6, 17). -/
def State.reset : State where
  blk := Block.reset
  params := defaultParams
  events := []
  drawn := 0
  rdata := 0#32

end Sys2Proof.Machine
end

