-- ==== Sys2Proof/Machine/Operands.lean ====
section
/-!
DEFINITION. The derived quantities of spec/00_scope.md R10, R12 and the conversions of spec/40_timer_ops.md R110, R111 and
spec/41_ranging_ops.md R157, all over the unbounded integers (R113).
-/
namespace Sys2Proof.Machine

/-- `N` (R5). -/
def widthBits : CounterWidth → Nat
  | .w8 => 8
  | .w16 => 16

/-- `2^N`, the ticks of one wrap period (R12, R115). -/
def wrapPeriod (w : CounterWidth) : Nat := 2 ^ widthBits w

/-- `MAXC = 2^N - 1` (R5). -/
def maxCount (w : CounterWidth) : Nat := wrapPeriod w - 1

/-- The prescaler a select field names; none for 0, 6 and 7, the unrecognized ones (R85). -/
def prescalerOf (ps : BitVec 3) : Option Prescaler :=
  if ps = 1#3 then some .div1
  else if ps = 2#3 then some .div8
  else if ps = 3#3 then some .div64
  else if ps = 4#3 then some .div256
  else if ps = 5#3 then some .div1024
  else none

/-- `DIV`, the divisor selected by `PS`; none while the counter clock is stopped (R12, R85). -/
def divisor : Prescaler → Option Nat
  | .stopped => none
  | .div1 => some 1
  | .div8 => some 8
  | .div64 => some 64
  | .div256 => some 256
  | .div1024 => some 1024

/-- `Ticks(o, c) = o * 2^N + c` (R12). -/
def ticks (w : CounterWidth) (o : Word) (c : BitVec 16) : Nat := o.toNat * wrapPeriod w + c.toNat

/-- `floor(a / b)` for `b > 0` (R10): rounding toward minus infinity. -/
def floorDiv (a b : Int) : Int := a / b

/-- `Reached(T, d)`: the time of T ticks has reached d microseconds (R12). -/
def reached (div clk : Nat) (t : Int) (us : Nat) : Bool := decide (t * div * 1000000 ≥ us * clk)

/-- `Exceeded(T, d)`: the time of T ticks has exceeded d microseconds (R12). -/
def exceeded (div clk : Nat) (t : Int) (us : Nat) : Bool := decide (t * div * 1000000 > us * clk)

/-- `TimeSec(T) = T * DIV / CLKHZ`, the exact rational number of seconds of `T` ticks (R12, R110). No register holds it: the
steps compute its floors and comparisons over the integers, without it. -/
def timeSec (div clk : Nat) (t : Int) : Rat := ((t * div : Int) : Rat) / (clk : Rat)

/-- `TimeUs(T) = floor(T * DIV * 10^6 / CLKHZ)` (R12, R110). -/
def timeUs (div clk t : Nat) : Int := floorDiv ((t : Int) * div * 1000000) clk

/-- `DistUm(START, END) = floor((END - START) * DIV * SOS * 1000 / (2 * CLKHZ))` (R111). -/
def distUm (div clk sos startT endT : Nat) : Int :=
  floorDiv (((endT : Int) - startT) * div * sos * 1000) (2 * clk)

/-- `floor((DIST - DIST1) * 10^6 / DT_US)` (R157). -/
def speedUmPerS (dtUs : Nat) (dist1 dist : Int) : Int := floorDiv ((dist - dist1) * 1000000) dtUs

/-- `u64(v)` and `s64(v)`: both are v modulo 2^64 as a bit pattern (R10). -/
def store64 (v : Int) : Long := BitVec.ofInt 64 v

/-- The timeout sentinel −1 of `DIST` and `DIST1` (R38, R154). -/
def sentinel : Long := store64 (-1)

/-- The indeterminate marker −2^63 of `SPEED` (R43, R157). -/
def speedMarker : Long := store64 (-9223372036854775808)

end Sys2Proof.Machine
end

