-- ==== Sys2Proof/Machine/Flags.lean ====
section
/-!
DEFINITION. The flag computations: whether a result fits its register (spec/00_scope.md R10, spec/40_timer_ops.md R112),
the codes of the closed sets, and the packed views `PHASE`, `STATUS` and `SEQST` (spec/30_encoding.md R85 to R89).
-/
namespace Sys2Proof.Machine

/-- `fits_u64(v)` (R10). -/
def fitsU64 (v : Int) : Bool := decide (0 ≤ v) && decide (v < 18446744073709551616)

/-- `fits_s64(v)` (R10). -/
def fitsS64 (v : Int) : Bool := decide (-9223372036854775808 ≤ v) && decide (v < 9223372036854775808)

/-- The code of `PS` in `STATUS[25:23]` (R85). -/
def prescalerCode : Prescaler → BitVec 3
  | .stopped => 0#3
  | .div1 => 1#3
  | .div8 => 2#3
  | .div64 => 3#3
  | .div256 => 4#3
  | .div1024 => 5#3

/-- The code of `OP` in `STATUS[10:8]` (R31, R86). -/
def opCode : Op → BitVec 3
  | .none => 0#3
  | .configure => 1#3
  | .rdtime => 2#3
  | .delay => 3#3
  | .measure => 4#3
  | .mspeed => 5#3

/-- The code of `RES` in `STATUS[13:12]` (R44). -/
def resCode : Res → BitVec 2
  | .none => 0#2
  | .valid => 1#2
  | .timeout => 2#2
  | .indet => 3#2

/-- The code of `ERR` in `STATUS[18:16]` (R180). -/
def errCode : Err → BitVec 3
  | .none => 0#3
  | .cfgPrescaler => 1#3
  | .cfgClock => 2#3
  | .cfgAgain => 3#3
  | .notConfigured => 4#3
  | .illegalCmd => 5#3

/-- The code of `SITE` in `SEQST[4:0]` (R88). -/
def siteCode : Site → BitVec 5
  | .idle => 0#5
  | .ct => 1#5
  | .dlRst => 2#5
  | .dl => 3#5
  | .trigOn => 4#5
  | .tpRst => 5#5
  | .tp => 6#5
  | .trigOff => 7#5
  | .ref => 8#5
  | .rPin => 9#5
  | .r => 10#5
  | .start => 11#5
  | .fPin => 12#5
  | .f => 13#5
  | .endRead => 14#5
  | .done => 15#5
  | .timedOut => 16#5
  | .gapRst => 17#5
  | .gap => 18#5
  | .speed => 19#5

/-- The reading sites, where the step is the paired read (R41, R88). -/
def isReading : Site → Bool
  | .ct | .dl | .tp | .ref | .r | .start | .f | .endRead | .gap => true
  | .idle | .dlRst | .trigOn | .tpRst | .trigOff | .rPin | .fPin | .done | .timedOut | .gapRst | .speed => false

/-- `PHASE` as a function of `SITE` (R42, R89): 0 IDLE, 1 TRIGGER_PULSE, 2 AWAIT_ECHO_RISE, 3 AWAIT_ECHO_FALL, 4 DONE,
5 TIMEOUT. -/
def phase : Site → BitVec 3
  | .trigOn | .tpRst | .tp | .trigOff => 1#3
  | .ref | .rPin | .r => 2#3
  | .start | .fPin | .f | .endRead => 3#3
  | .done => 4#3
  | .timedOut => 5#3
  | .idle | .ct | .dlRst | .dl | .gapRst | .gap | .speed => 0#3

/-- A field of a packed view whose lowest bit is bit `lo` of the word (R9). -/
def fieldAt {w : Nat} (lo : Nat) (x : BitVec w) : Word := x.setWidth 32 <<< lo

/-- A one-bit field of a packed view. -/
def flagAt (lo : Nat) (b : Bool) : Word := fieldAt lo (BitVec.ofBool b)

/-- `STATUS`, the packed view of R86, from bit 0 up; the bits no field covers (15, 19, 31:26) are 0. -/
def status (b : Block) : Word :=
  flagAt 0 b.busy ||| flagAt 1 b.cfgd ||| flagAt 2 b.oie ||| flagAt 3 b.ovp ||| fieldAt 4 (phase b.site) |||
    flagAt 7 b.trig ||| fieldAt 8 (opCode b.op) ||| flagAt 11 b.sample ||| fieldAt 12 (resCode b.res) |||
    flagAt 14 b.tok ||| fieldAt 16 (errCode b.err) ||| flagAt 20 b.fLost ||| flagAt 21 b.fOvfwrap |||
    flagAt 22 b.fRange ||| fieldAt 23 (prescalerCode b.ps)

/-- `SEQST`: `SITE` in bits 4:0, `RP` in bits 6:5, all other bits 0 (R51). -/
def seqst (b : Block) : Word := fieldAt 0 (siteCode b.site) ||| fieldAt 5 b.rp

end Sys2Proof.Machine
end

