-- ==== Sys2Proof/Machine/Ops.lean ====
section
/-!
DEFINITION. The operations every command and agent shares: Zero, finish, the acceptance of a command, the counter tick, the
overflow interrupt (taking it and returning from it), the paired read, and the register reads and operand writes of the
host port (spec/40_timer_ops.md section 1 and 2, spec/20_memory.md).
-/
namespace Sys2Proof.Machine

/-- `Zero` (R105): one atomic step. -/
def Block.zero (b : Block) : Block := { b with cnt := 0#16, ovf := 0#32, ovp := false }

/-- `SITE <- site; RP <- rp`, the successor that every `SEQ` step names (R40, R41, R53). -/
def Block.goTo (b : Block) (site : Site) (rp : BitVec 2) : Block := { b with site := site, rp := rp }

/-- `finish` (R106). -/
def Block.finish (b : Block) : Block := { b with busy := false, site := .idle, rp := 0#2 }

/-- The write `ERR <- code` of a rejected command, with nothing else changed (R180). -/
def Block.reject (b : Block) (e : Err) : Block := { b with err := e }

/-- The accepting branch of `Start(op, site, rp)` (R121). -/
def Block.begin (b : Block) (op : Op) (site : Site) (rp : BitVec 2) : Block :=
  { b with err := .none, busy := true, op := op, sample := false, res := .none, site := site, rp := rp }

/-- `Start(op, site, rp)` (R121). -/
def Block.startCommand (b : Block) (op : Op) (site : Site) (rp : BitVec 2) : Block :=
  if b.cfgd then b.begin op site rp else b.reject .notConfigured

/-- The success branch of CONFIGURE (R120). -/
def Block.applyConfig (b : Block) (p : Prescaler) : Block :=
  { b.zero with ps := p, oie := true, cfgd := true, op := .configure, err := .none }

/-- `Configure(ps)`, the three checks in their order (R120, R182). -/
def Block.configure (b : Block) (ps : BitVec 3) : Block :=
  if b.cfgd then b.reject .cfgAgain
  else match prescalerOf ps with
    | none => b.reject .cfgPrescaler
    | some p => if b.clkhz = 0#32 then b.reject .cfgClock else b.applyConfig p

/-- `TICK` is enabled exactly when the counter clock runs: `PS` in 1 to 5 (R7, R100). -/
def Block.tickEnabled (b : Block) : Bool := b.ps != .stopped

/-- The `TICK` step (R100), with the lost overflow of R101. -/
def Block.tick (w : CounterWidth) (b : Block) : Block :=
  if b.cnt.toNat = maxCount w then { b with cnt := 0#16, fLost := b.fLost || b.ovp, ovp := true }
  else { b with cnt := b.cnt + 1#16 }

/-- `OVH` is enabled exactly when a request is pending and enabled (R7, R102). -/
def Block.ovhEnabled (b : Block) : Bool := b.ovp && b.oie

/-- TAKING THE OVERFLOW INTERRUPT, the block's one exception: the whole handler is the single step `OVH` (R102, R187). It
saves nothing, changes no mode and goes to no vector. -/
def Block.takeOverflow (b : Block) : Block :=
  if b.ovf = 4294967295#32 then { b with ovf := 0#32, fOvfwrap := true, ovp := false }
  else { b with ovf := b.ovf + 1#32, ovp := false }

/-- RETURNING FROM THE OVERFLOW INTERRUPT: "nothing is restored because nothing was saved", the sequencer goes on at the
(`SITE`, `RP`) it was held at (R188). -/
def Block.returnFromOverflow (b : Block) : Block := b

/-- `SEQ` is enabled exactly when a command runs and no enabled overflow request is pending (R7, R104). -/
def Block.seqEnabled (b : Block) : Bool := b.busy && !(b.ovp && b.oie)

/-- Run `k` with `DIV`; while the counter clock is stopped there is none (R12, R85). -/
def withDivisor (b : Block) (k : Nat → Except Refusal Block) : Except Refusal Block :=
  match divisor b.ps with
  | none => .error .noDivisor
  | some d => k d

/-- Run `k` with `DIV` and `CLKHZ` as a divisor (R113 d). -/
def withClock (b : Block) (k : Nat → Nat → Except Refusal Block) : Except Refusal Block :=
  withDivisor b fun d => if b.clkhz = 0#32 then .error .zeroClock else k d b.clkhz.toNat

/-- The paired read `ReadPair` (R107): its three steps, selected by `RP`; `exit` is the site's own `Exit_SITE(T)`. -/
def readPair (w : CounterWidth) (b : Block) (exit : Nat → Except Refusal Block) : Except Refusal Block :=
  if b.rp = 1#2 then .ok { b with o1 := b.ovf, rp := 2#2 }
  else if b.rp = 2#2 then .ok { b with c1 := b.cnt, rp := 3#2 }
  else if b.rp = 3#2 then (if b.ovf ≠ b.o1 then .ok { b with rp := 1#2 } else exit (ticks w b.o1 b.c1))
  else .error .readWithoutStep

/-- The content column of the register map (20_memory.md R61): the readable word at a byte offset, none for `CMD` (write
only) and for an offset that is not in the table. -/
def registerAt (p : Params) (b : Block) (off : Offset) : Option Word :=
  if off = 0x04#7 then some (status b)
  else if off = 0x08#7 then some b.clkhz
  else if off = 0x0C#7 then some b.duration
  else if off = 0x10#7 then some b.timeout
  else if off = 0x18#7 then some (b.time.extractLsb' 0 32)
  else if off = 0x1C#7 then some (b.time.extractLsb' 32 32)
  else if off = 0x20#7 then some (b.dist.extractLsb' 0 32)
  else if off = 0x24#7 then some (b.dist.extractLsb' 32 32)
  else if off = 0x28#7 then some (b.speed.extractLsb' 0 32)
  else if off = 0x2C#7 then some (b.speed.extractLsb' 32 32)
  else if off = 0x30#7 then some (b.dist1.extractLsb' 0 32)
  else if off = 0x34#7 then some (b.dist1.extractLsb' 32 32)
  else if off = 0x38#7 then some (b.startT.extractLsb' 0 32)
  else if off = 0x3C#7 then some ((b.startT.extractLsb' 32 16).setWidth 32)
  else if off = 0x40#7 then some (b.endT.extractLsb' 0 32)
  else if off = 0x44#7 then some ((b.endT.extractLsb' 32 16).setWidth 32)
  else if off = 0x48#7 then some (b.cnt.setWidth 32)
  else if off = 0x4C#7 then some b.ovf
  else if off = 0x50#7 then some p.dtUs
  else if off = 0x54#7 then some p.sos
  else if off = 0x58#7 then some (seqst b)
  else none

/-- An offset that is not a multiple of 4 (R65). -/
def misaligned (off : Offset) : Bool := off.extractLsb' 0 2 != 0#2

/-- `RegRead(off)` (R62). -/
def regRead (p : Params) (b : Block) (off : Offset) : Word :=
  if misaligned off then 0#32 else (registerAt p b off).getD 0#32

/-- The arms of `RegWrite(off, v)` that store an operand, for `BUSY = 0` and an aligned offset other than `CMD`; every other
offset changes nothing (R63). -/
def Block.writeOperand (b : Block) (off : Offset) (v : Word) : Block :=
  if off = 0x08#7 then (if b.cfgd then b else { b with clkhz := v })
  else if off = 0x0C#7 then { b with duration := v }
  else if off = 0x10#7 then { b with timeout := v }
  else b

/-- The state with another block: parameters, inputs and `rdata` as they were. -/
def State.withBlk (s : State) (b : Block) : State := { s with blk := b }

/-- A write to `CMD` while no command runs does `f` to the block; while `BUSY = 1` it does nothing (R63). -/
def State.command (s : State) (f : Block → Block) : State := if s.blk.busy then s else s.withBlk (f s.blk)

end Sys2Proof.Machine
end

