-- ==== Sys2Proof/Machine/Ranging.lean ====
section
/-!
DEFINITION. The ranging commands MEASURE and MSPEED: what the host's write of the command byte does (spec/40_timer_ops.md
R121), and the sites of one measurement, of the gap and of the speed (spec/41_ranging_ops.md R142 to R158).
-/
namespace Sys2Proof.Machine

/-- MEASURE, its acceptance `Start(4, S_TRIG_ON, 0)` (R141, R121). -/
def execMeasure (s : State) : Host.Outcome State Fault Refusal :=
  .next (s.command (·.startCommand .measure .trigOn 0#2))

/-- MSPEED, its acceptance `Start(5, S_TRIG_ON, 0)` (R155, R121). -/
def execMspeed (s : State) : Host.Outcome State Fault Refusal :=
  .next (s.command (·.startCommand .mspeed .trigOn 0#2))

/-- `S_TRIG_ON` (R143). -/
def siteTrigOn (b : Block) : Except Refusal Block := .ok { b.goTo .tpRst 0#2 with trig := true }

/-- `S_TP_RST` (R144). -/
def siteTpRst (b : Block) : Except Refusal Block := .ok (b.zero.goTo .tp 1#2)

/-- `Exit_S_TP(T)` (R144); `trigUs` is the parameter `TRIG_US`. -/
def exitTp (trigUs : Nat) (b : Block) (t : Nat) : Except Refusal Block :=
  withDivisor b fun div =>
    if reached div b.clkhz.toNat t trigUs then .ok (b.goTo .trigOff 0#2) else .ok (b.goTo .tp 1#2)

/-- `S_TRIG_OFF` (R145). -/
def siteTrigOff (b : Block) : Except Refusal Block := .ok { b.goTo .ref 1#2 with trig := false }

/-- `Exit_S_REF(T)` (R146). -/
def exitRef (b : Block) (t : Nat) : Except Refusal Block := .ok { b.goTo .rPin 0#2 with refT := BitVec.ofNat 48 t }

/-- `S_R_PIN` (R148): `echo` is `sample(ECHO)` (R147). -/
def siteRPin (echo : Bool) (b : Block) : Except Refusal Block := .ok (if echo then b.goTo .start 1#2 else b.goTo .r 1#2)

/-- The bound check of both waits: `Exceeded(T - from, TIMEOUT)` leads to `S_TIMEOUT` with `TOK`, otherwise back to the pin
(R149, R152). -/
def boundWait (b : Block) (t : Nat) (since : TickReg) (tok : Bool) (pin : Site) : Except Refusal Block :=
  withDivisor b fun div =>
    if exceeded div b.clkhz.toNat ((t : Int) - since.toNat) b.timeout.toNat then
      .ok { b.goTo .timedOut 0#2 with tok := tok }
    else .ok (b.goTo pin 0#2)

/-- `Exit_S_R(T)` (R149). -/
def exitR (b : Block) (t : Nat) : Except Refusal Block := boundWait b t b.refT false .rPin

/-- `Exit_S_START(T)` (R150). -/
def exitStart (b : Block) (t : Nat) : Except Refusal Block := .ok { b.goTo .fPin 0#2 with startT := BitVec.ofNat 48 t }

/-- `S_F_PIN` (R151). -/
def siteFPin (echo : Bool) (b : Block) : Except Refusal Block := .ok (if echo then b.goTo .f 1#2 else b.goTo .endRead 1#2)

/-- `Exit_S_F(T)` (R152). -/
def exitF (b : Block) (t : Nat) : Except Refusal Block := boundWait b t b.startT true .fPin

/-- `Exit_S_END(T)` (R158). -/
def exitEnd (b : Block) (t : Nat) : Except Refusal Block := .ok { b.goTo .done 0#2 with endT := BitVec.ofNat 48 t }

/-- Where a measurement delivers its value `d` (R153, R154): MEASURE stores it in `DIST` and finishes with `res`; MSPEED
stores the first sample in `DIST1` and goes to the gap, the second in `DIST` and goes to the speed. -/
def deliver (b : Block) (d : Long) (res : Res) : Block :=
  if b.op = .measure then { b.finish with dist := d, res := res }
  else if b.sample then { b.goTo .speed 0#2 with dist := d }
  else { b.goTo .gapRst 0#2 with dist1 := d }

/-- `S_DONE` (R153, R112); `sos` is the parameter `SOS`. -/
def siteDone (sos : Word) (b : Block) : Except Refusal Block :=
  withClock b fun div clk =>
    .ok { deliver b (store64 (distUm div clk sos.toNat b.startT.toNat b.endT.toNat)) .valid with
      fRange := b.fRange || !fitsS64 (distUm div clk sos.toNat b.startT.toNat b.endT.toNat) }

/-- `S_TIMEOUT` (R154). -/
def siteTimedOut (b : Block) : Except Refusal Block := .ok (deliver b sentinel .timeout)

/-- `S_GAP_RST` (R156). -/
def siteGapRst (b : Block) : Except Refusal Block := .ok (b.zero.goTo .gap 1#2)

/-- `Exit_S_GAP(T)` (R156); `dtUs` is the parameter `DT_US`. -/
def exitGap (dtUs : Word) (b : Block) (t : Nat) : Except Refusal Block :=
  withDivisor b fun div =>
    if reached div b.clkhz.toNat t dtUs.toNat then .ok { b.goTo .trigOn 0#2 with sample := true }
    else .ok (b.goTo .gap 1#2)

/-- `S_SPEED` (R157, R112). -/
def siteSpeed (dtUs : Word) (b : Block) : Except Refusal Block :=
  if b.dist1 = sentinel ∨ b.dist = sentinel then .ok { b.finish with speed := speedMarker, res := .indet }
  else if dtUs = 0#32 then .error .zeroGap
  else .ok { b.finish with
    speed := store64 (speedUmPerS dtUs.toNat b.dist1.toInt b.dist.toInt), res := .valid,
    fRange := b.fRange || !fitsS64 (speedUmPerS dtUs.toNat b.dist1.toInt b.dist.toInt) }

end Sys2Proof.Machine
end

