-- ==== Sys2Proof/Machine/Timer.lean ====
section
/-!
DEFINITION. The Timer commands CONFIGURE, RDTIME and DELAY: what the host's write of the command byte does
(spec/40_timer_ops.md R120, R121), and the sequencer's steps that run RDTIME and DELAY (R123 to R125).
-/
namespace Sys2Proof.Machine

/-- CONFIGURE (R120): performed wholly inside the host's write step. -/
def execConfigure (ps : BitVec 3) (s : State) : Host.Outcome State Fault Refusal :=
  .next (s.command (·.configure ps))

/-- RDTIME, its acceptance `Start(2, S_CT, 1)` (R123, R121). The conversion is the last step of `S_CT` (`exitCt`). -/
def execRdtime (s : State) : Host.Outcome State Fault Refusal :=
  .next (s.command (·.startCommand .rdtime .ct 1#2))

/-- DELAY, its acceptance `Start(3, S_DL_RST, 0)` (R124, R121). -/
def execDelay (s : State) : Host.Outcome State Fault Refusal :=
  .next (s.command (·.startCommand .delay .dlRst 0#2))

/-- `Exit_S_CT(T)` (R123, R112): convert, store, finish. -/
def exitCt (b : Block) (t : Nat) : Except Refusal Block :=
  withClock b fun div clk =>
    .ok { b.finish with
      time := store64 (timeUs div clk t), fRange := b.fRange || !fitsU64 (timeUs div clk t), res := .valid }

/-- `S_DL_RST` (R124). -/
def siteDlRst (b : Block) : Except Refusal Block := .ok (b.zero.goTo .dl 1#2)

/-- `Exit_S_DL(T)` (R125). -/
def exitDl (b : Block) (t : Nat) : Except Refusal Block :=
  withDivisor b fun div =>
    if reached div b.clkhz.toNat t b.duration.toNat then .ok { b.finish with res := .valid } else .ok (b.goTo .dl 1#2)

end Sys2Proof.Machine
end

