-- ==== Sys2Proof/Machine/Dispatch.lean ====
section
/-!
DEFINITION. The meaning of each command, one arm per constructor of Instr: the host's write of its byte to `CMD`
(spec/30_encoding.md R81).
-/
namespace Sys2Proof.Machine

def exec (i : Instr) (s : State) : Host.Outcome State Fault Refusal :=
  match i with
  | .configure ps => Sys2Proof.Machine.execConfigure ps s
  | .rdtime => Sys2Proof.Machine.execRdtime s
  | .delay => Sys2Proof.Machine.execDelay s
  | .measure => Sys2Proof.Machine.execMeasure s
  | .mspeed => Sys2Proof.Machine.execMspeed s

end Sys2Proof.Machine
end

