-- ==== Sys2Proof/Machine/Sequencer.lean ====
section
/-!
DEFINITION. The step of the sequencer: the one that the current (`SITE`, `RP`) selects (spec/40_timer_ops.md R104,
spec/30_encoding.md R88).
-/
namespace Sys2Proof.Machine

/-- One `SEQ` step of an enabled sequencer; `echo` is the level of `echo_in` at this step (R104, R147). The steps of the
sites that are not reading sites do not look at `RP` (log 20). -/
def seqStep (p : Params) (echo : Bool) (b : Block) : Except Refusal Block :=
  match b.site with
  | .idle => .error .busyAtIdle
  | .ct => readPair p.width b (exitCt b)
  | .dlRst => siteDlRst b
  | .dl => readPair p.width b (exitDl b)
  | .trigOn => siteTrigOn b
  | .tpRst => siteTpRst b
  | .tp => readPair p.width b (exitTp p.trigUs b)
  | .trigOff => siteTrigOff b
  | .ref => readPair p.width b (exitRef b)
  | .rPin => siteRPin echo b
  | .r => readPair p.width b (exitR b)
  | .start => readPair p.width b (exitStart b)
  | .fPin => siteFPin echo b
  | .f => readPair p.width b (exitF b)
  | .endRead => readPair p.width b (exitEnd b)
  | .done => siteDone p.sos b
  | .timedOut => siteTimedOut b
  | .gapRst => siteGapRst b
  | .gap => readPair p.width b (exitGap p.dtUs b)
  | .speed => siteSpeed p.dtUs b

end Sys2Proof.Machine
end

