-- ==== Sys2Proof/Machine/HostPort.lean ====
section
/-!
DEFINITION. The steps of the five agents and of reset on the whole state: the host's accesses (spec/20_memory.md R62, R63,
spec/30_encoding.md R81), `TICK`, `OVH`, `SEQ` (spec/40_timer_ops.md R100 to R104) and `rst` (spec/70_reset_and_hazards.md R200).
-/
namespace Sys2Proof.Machine

/-- `Command(b)`, and the refusal of a byte that is no command: `ERR <- 5` and nothing else (R81, R83). -/
def commandWrite (b : Byte) (s : State) : Host.Outcome State Fault Refusal :=
  match decode b with
  | .command i => exec i s
  | .illegal _ => .next (s.command (·.reject .illegalCmd))

/-- `RegWrite(off, v)` (R63). -/
def hostWrite (off : Offset) (v : Word) (s : State) : Host.Outcome State Fault Refusal :=
  if s.blk.busy then .next s
  else if misaligned off then .next s
  else if off = 0x00#7 then commandWrite (commandByte v) s
  else .next (s.withBlk (s.blk.writeOperand off v))

/-- `RegRead(off)` (R62): the word goes to port `rdata`; no item of the block changes. -/
def hostRead (off : Offset) (s : State) : Host.Outcome State Fault Refusal :=
  .next { s with rdata := regRead s.params s.blk off }

/-- One access of the host. -/
def hostStep (a : HostAccess) (s : State) : Host.Outcome State Fault Refusal :=
  match a with
  | .read off => hostRead off s
  | .write off v => hostWrite off v s

/-- `TICK`; while it is not enabled the event changes nothing (R100, log 4). -/
def tickStep (s : State) : Host.Outcome State Fault Refusal :=
  .next (if s.blk.tickEnabled then s.withBlk (s.blk.tick s.params.width) else s)

/-- `OVH`: the overflow interrupt is taken and returned from in one step; while it is not enabled the event changes nothing
(R102, R187, R188, log 4). -/
def ovhStep (s : State) : Host.Outcome State Fault Refusal :=
  .next (if s.blk.ovhEnabled then s.withBlk s.blk.takeOverflow.returnFromOverflow else s)

/-- `SEQ`; while it is not enabled the event changes nothing (R104, log 4). -/
def sequencerStep (echo : Bool) (s : State) : Host.Outcome State Fault Refusal :=
  if s.blk.seqEnabled then
    match seqStep s.params echo s.blk with
    | .ok b => .next (s.withBlk b)
    | .error r => .refused r
  else .next s

/-- The assertion of `rst`: every item of the block at its reset value; the parameters are not affected (R200, R201, log 15). -/
def resetStep (s : State) : Host.Outcome State Fault Refusal := .next (s.withBlk Block.reset)

/-- The step of the agent whose turn it is (R7). -/
def runEvent (e : Event) (s : State) : Host.Outcome State Fault Refusal :=
  match e with
  | .tick => tickStep s
  | .ovh => ovhStep s
  | .seq echo => sequencerStep echo s
  | .host a => hostStep a s
  | .reset => resetStep s

/-- The next input: the oldest one placed, or, if none is left, a free one (log 3). -/
def State.nextEvent (s : State) : Event :=
  match s.events with
  | e :: _ => e
  | [] => Config.freeEvent s.drawn

/-- The state with that input consumed. -/
def State.advance (s : State) : State :=
  match s.events with
  | _ :: es => { s with events := es }
  | [] => { s with drawn := s.drawn + 1 }

/-- The access by which the host issues a command: the write of its byte to offset 0x00 (R80). -/
def commandAccess (v : Word) : HostAccess := .write 0x00#7 v

end Sys2Proof.Machine
end

