-- ==== Sys2Proof/Machine/Step.lean ====
section
/-!
DEFINITION. One step of the machine: the next input is consumed and its agent steps (spec/00_scope.md R7).
-/
namespace Sys2Proof.Machine

/-- One atomic step of one agent (R7, R68). -/
def step (s : State) : Host.Outcome State Fault Refusal := runEvent s.nextEvent s.advance

/-- `s` with the host's write of the command byte `w` as its next input, so that `step` runs that command: the block has no
program to fetch from, "the commands come one at a time through `CMD`" (R61, log 8). -/
def State.withFetchWord (s : State) (nbits w : Nat) : State :=
  { s with events := .host (commandAccess (BitVec.ofNat 32 (w % 2 ^ nbits))) :: s.events }

end Sys2Proof.Machine
end

