-- ==== Sys2Proof/Safety.lean ====
section
/-!
DEFINITION. The terms the claims use: the invariants the spec states of every reachable state (spec/10_state.md R55 and the
rules beside it), the steps that zero the counters, and the exact count of ticks the paired read is measured against
(spec/40_timer_ops.md R109).
-/
namespace Sys2Proof.Machine

/-- Which command, and which sample of MSPEED, can stand at a site: RDTIME and DELAY at their own sites, a measurement only
for MEASURE or MSPEED, the gap after the first sample and the speed after the second (R123 to R125, R142, R153 to R157). -/
def siteAllows : Site → Op → Bool → Bool
  | .idle, _, _ => true
  | .ct, op, _ => op == .rdtime
  | .dlRst, op, _ | .dl, op, _ => op == .delay
  | .gapRst, op, sample | .gap, op, sample => op == .mspeed && !sample
  | .speed, op, sample => op == .mspeed && sample
  | .trigOn, op, _ | .tpRst, op, _ | .tp, op, _ | .trigOff, op, _ | .ref, op, _ | .rPin, op, _ | .r, op, _
  | .start, op, _ | .fPin, op, _ | .f, op, _ | .endRead, op, _ | .done, op, _ | .timedOut, op, _ =>
    op == .measure || op == .mspeed

/-- The sites at which `trig_out` is active (R48, R159 a). -/
def pulseSite : Site → Bool
  | .tpRst | .tp | .trigOff => true
  | .idle | .ct | .dlRst | .dl | .trigOn | .ref | .rPin | .r | .start | .fPin | .f | .endRead | .done | .timedOut | .gapRst
  | .gap | .speed => false

/-- The invariants of every state reachable from reset, each with the rule that states or implies it. -/
structure Legal (p : Params) (b : Block) : Prop where
  /-- The parameters have legal values (R5). -/
  params : p.wellFormed = true
  /-- R55 a. -/
  enable : b.oie = b.cfgd
  /-- R55 b. -/
  clockStopped : b.ps = .stopped ↔ b.cfgd = false
  /-- R55 c. -/
  clockKnown : b.cfgd = true → b.clkhz ≠ 0#32
  /-- R55 d. -/
  configured : b.busy = true → b.cfgd = true
  /-- R55 e, R40. -/
  idleSite : b.site = .idle ↔ b.busy = false
  /-- R55 f, R41. -/
  readStep : b.rp ≠ 0#2 ↔ isReading b.site = true
  /-- R55 g. -/
  unconfigured : b.cfgd = false → b.cnt = 0#16 ∧ b.ovf = 0#32 ∧ b.ovp = false
  /-- R48, R159 a. -/
  trigLevel : b.trig = true ↔ pulseSite b.site = true
  /-- R31, R32: the sites of a command are the sites its rule names. -/
  siteOp : siteAllows b.site b.op b.sample = true
  /-- R32: `SAMPLE` is 0 during every command but MSPEED. -/
  sampleOp : b.sample = true → b.op = .mspeed
  /-- R31: no command has been accepted exactly while the block is not configured. -/
  opKnown : b.op = .none ↔ b.cfgd = false
  /-- R44: no result from the acceptance of a command until it finishes. -/
  noResult : b.busy = true → b.res = .none
  /-- R44, R196: a timing command that has ended has a result. -/
  delivered : b.busy = false → b.op ≠ .none → b.op ≠ .configure → b.res ≠ .none
  /-- R44, R154: `TIMEOUT` is MEASURE's and comes with the sentinel. -/
  sentinelOut : b.res = .timeout → b.op = .measure ∧ b.dist = sentinel
  /-- R44, R157: `INDET` is MSPEED's and comes with the marker. -/
  markerOut : b.res = .indet → b.op = .mspeed ∧ b.speed = speedMarker
  /-- R21: `CNT` is in 0 to `MAXC`. -/
  cntRange : b.cnt.toNat < wrapPeriod p.width
  /-- R33: `C1` has N bits. -/
  c1Range : b.c1.toNat < wrapPeriod p.width
  /-- R34 to R36: a tick register holds a value of `Ticks(OVF, CNT)`. -/
  refRange : b.refT.toNat < 4294967296 * wrapPeriod p.width
  startRange : b.startT.toNat < 4294967296 * wrapPeriod p.width
  endRange : b.endT.toNat < 4294967296 * wrapPeriod p.width

/-- One of the sticky fault bits that bear on tick counts is set (R47, R184). -/
def Block.miscounted (b : Block) : Bool := b.fLost || b.fOvfwrap

/-- A CONFIGURE byte written now would succeed (R120). -/
def configureSucceeds (b : Block) (c : Byte) : Bool :=
  match decode c with
  | .command (.configure ps) => !b.cfgd && (prescalerOf ps).isSome && b.clkhz != 0#32
  | .command .rdtime | .command .delay | .command .measure | .command .mspeed | .illegal _ => false

/-- The next step of `s` zeroes the counters: a successful CONFIGURE, a `SEQ` step at `S_DL_RST`, `S_TP_RST` or `S_GAP_RST`
(R105), or reset (R200). -/
def State.zeroes (s : State) : Bool :=
  match s.nextEvent with
  | .tick | .ovh | .host (.read _) => false
  | .seq _ => s.blk.seqEnabled && (s.blk.site == .dlRst || s.blk.site == .tpRst || s.blk.site == .gapRst)
  | .host (.write off v) => !s.blk.busy && off == 0x00#7 && configureSucceeds s.blk (commandByte v)
  | .reset => true

/-- An onlooker's count, no part of the machine: the `TICK` steps since the counters were last zeroed, and what that count
was at the last step 2 of a paired read (the moment `t2` of R109). -/
structure Watch where
  ticks : Nat
  atRead : Nat
  deriving DecidableEq, Repr

/-- The onlooker's count after the next step of `s`. -/
def Watch.after (w : Watch) (s : State) : Watch :=
  if s.zeroes then { w with ticks := 0 }
  else match s.nextEvent with
    | .tick => if s.blk.tickEnabled then { w with ticks := w.ticks + 1 } else w
    | .seq _ =>
      if s.blk.seqEnabled && isReading s.blk.site && s.blk.rp == 2#2 then { w with atRead := w.ticks } else w
    | .ovh | .host _ | .reset => w

/-- The ticks the pair (`OVF`, `CNT`) stands for, a pending request counted as one wrap period (R103). -/
def Block.elapsed (w : CounterWidth) (b : Block) : Nat :=
  ticks w b.ovf b.cnt + (if b.ovp then wrapPeriod w else 0)

/-- The block's counts agree with the onlooker's (R55 i, R103, R109). -/
structure Exact (s : State) (w : Watch) : Prop where
  /-- `OVF`, `CNT` and the pending request stand for the ticks since the last zeroing. -/
  count : s.blk.elapsed s.params.width = w.ticks
  /-- Inside a paired read `OVF` has not fallen below its first read. -/
  firstRead : isReading s.blk.site = true → s.blk.rp = 2#2 ∨ s.blk.rp = 3#2 → s.blk.o1.toNat ≤ s.blk.ovf.toNat
  /-- At step 3, if `OVF` has not moved since step 1, the pair read is the tick count at step 2. -/
  pair : isReading s.blk.site = true → s.blk.rp = 3#2 → s.blk.ovf = s.blk.o1 →
    ticks s.params.width s.blk.o1 s.blk.c1 = w.atRead
  /-- The count at step 2 lies in the past. -/
  past : isReading s.blk.site = true → s.blk.rp = 3#2 → w.atRead ≤ w.ticks

/-- The block's counts agree with the onlooker's as long as no fault bit says otherwise (R101, R102, R109). -/
def CountsExact (s : State) (w : Watch) : Prop := s.blk.miscounted = false → Exact s w

/-- It is the sequencer's turn, it may step, and it stands at `site` while `echo_in` is at `echo`. -/
def State.SeqAt (s : State) (site : Site) (echo : Bool) : Prop :=
  s.nextEvent = .seq echo ∧ s.blk.seqEnabled = true ∧ s.blk.site = site

/-- It is the sequencer's turn to do the third step of a paired read at `site`, and `OVF` is as at the first step: the step
runs `Exit_SITE(T)` (R107). -/
def State.ReadsAt (s : State) (site : Site) (t : Nat) : Prop :=
  (∃ echo, s.SeqAt site echo) ∧ s.blk.rp = 3#2 ∧ s.blk.ovf = s.blk.o1 ∧
    t = s.blk.o1.toNat * (if s.params.width = .w8 then 256 else 65536) + s.blk.c1.toNat

end Sys2Proof.Machine
end

