-- ==== Sys2Proof/Certificates/Slice0/Obligations.lean ====
section
/-!
DEFINITION. The statements for the provers, in the order of the spec's files: reset, encoding, the host port, the agents,
the commands site by site, the machine's invariants, and the exactness of the paired read.
-/

open Sys2Proof Sys2Proof.Machine

/-! ### Reset -/

/-- R54: "every item of rule R20 is 0, except `TIMEOUT`, which is 30000", item by item, and the views that follow. -/
def Obligations.ResetLeavesZeroesAndTimeout30000 : Prop :=
  let b := State.reset.blk
  b.cnt = 0#16 ∧ b.ovf = 0#32 ∧ b.clkhz = 0#32 ∧ prescalerCode b.ps = 0#3 ∧ b.ovp = false ∧ b.oie = false ∧
    b.cfgd = false ∧ b.duration = 0#32 ∧ b.timeout = 30000#32 ∧ b.busy = false ∧ opCode b.op = 0#3 ∧ b.sample = false ∧
    b.o1 = 0#32 ∧ b.c1 = 0#16 ∧ b.refT = 0#48 ∧ b.startT = 0#48 ∧ b.endT = 0#48 ∧ b.time = 0#64 ∧ b.dist = 0#64 ∧
    b.dist1 = 0#64 ∧ siteCode b.site = 0#5 ∧ b.rp = 0#2 ∧ b.speed = 0#64 ∧ resCode b.res = 0#2 ∧ b.tok = false ∧
    errCode b.err = 0#3 ∧ b.fLost = false ∧ b.fOvfwrap = false ∧ b.fRange = false ∧ b.trig = false ∧
    phase b.site = 0#3 ∧ status b = 0#32 ∧ seqst b = 0#32

/-- R200: reset is one atomic step possible in any state, after which the state is the reset state; and it is the only way
to clear `CFGD`, `OIE` and the fault bits, and the only way to stop the counter clock. -/
def Obligations.ResetRestoresResetStateAndOnlyResetClears : Prop :=
  (∀ s : State, s.nextEvent = .reset → ∃ t, step s = .next t ∧ t.blk = State.reset.blk) ∧
    ∀ s t : State, s.nextEvent ≠ .reset → step s = .next t →
      (s.blk.cfgd = true → t.blk.cfgd = true) ∧ (s.blk.oie = true → t.blk.oie = true) ∧
        (s.blk.ps ≠ .stopped → t.blk.ps ≠ .stopped) ∧ (s.blk.fLost = true → t.blk.fLost = true) ∧
          (s.blk.fOvfwrap = true → t.blk.fOvfwrap = true) ∧ (s.blk.fRange = true → t.blk.fRange = true)

/-- R201: after reset no agent but the host changes anything, whatever input comes, until the host writes. -/
def Obligations.NothingRunsAfterResetUntilHostWrites : Prop :=
  ∀ s : State, s.blk = State.reset.blk → (∀ off v, s.nextEvent ≠ .host (.write off v)) →
    ∃ t, step s = .next t ∧ t.blk = State.reset.blk

/-- R201, R56, and the model's choice to carry the parameters in State (log 1): no step of any agent, reset included,
changes a parameter. -/
def Obligations.ParametersNeverChange : Prop :=
  ∀ s t : State, step s = .next t → t.params = s.params

/-! ### Encoding -/

/-- R80: a byte selects the command of a row exactly when `(b AND mask) = match`, and `ps` is `b[6:4]`. -/
def Obligations.ByteSelectsCommandByMaskAndMatch : Prop :=
  ∀ b : Byte,
    (∀ ps, decode b = .command (.configure ps) ↔ b &&& 0x8F#8 = 0x01#8 ∧ ps.toNat = b.toNat / 16) ∧
      (decode b = .command .rdtime ↔ b &&& 0xFF#8 = 0x02#8) ∧ (decode b = .command .delay ↔ b &&& 0xFF#8 = 0x03#8) ∧
        (decode b = .command .measure ↔ b &&& 0xFF#8 = 0x04#8) ∧ (decode b = .command .mspeed ↔ b &&& 0xFF#8 = 0x05#8)

/-- R80, R81: a byte decodes to a command exactly when it is that command's byte, for every command and every select: no
bit of an encoding is dropped and no two commands share a byte. -/
def Obligations.DecodeAnswersExactlyTheEncodedCommand : Prop :=
  ∀ (b : Byte) (i : Instr), decode b = .command i ↔ encode i = b

/-- R82: the opcode map over all 256 bytes: twelve are commands, the other 244 are illegal. -/
def Obligations.TwelveLegalBytesAnd244Illegal : Prop :=
  (∀ b : Byte, (match decode b with | .command _ => true | .illegal _ => false) =
    [0x01#8, 0x11#8, 0x21#8, 0x31#8, 0x41#8, 0x51#8, 0x61#8, 0x71#8, 0x02#8, 0x03#8, 0x04#8, 0x05#8].contains b) ∧
    ((List.range 256).filter (fun n => match decode (BitVec.ofNat 8 n) with | .command _ => false | .illegal _ => true)).length = 244

/-- R80, 95_test_vectors.md 2.1: command bytes of the spec decode to the commands they stand for (a sanity statement). -/
def Obligations.SpecBytesDecode : Prop :=
  decode 0b00100001#8 = .command (.configure 2#3) ∧ decode 0b01110001#8 = .command (.configure 7#3) ∧
    decode 0b00000010#8 = .command .rdtime ∧ decode 0b00000011#8 = .command .delay ∧ decode 0b00000100#8 = .command .measure ∧
      decode 0b00000101#8 = .command .mspeed ∧ decode 0x00#8 = .illegal .opcodeZero ∧ decode 0xA1#8 = .illegal .topBitSet ∧
        decode 0x24#8 = .illegal .selectNotZero ∧ decode 0x0F#8 = .illegal .opcodeReserved

/-- R83: an illegal byte written to `CMD` does not trap and starts nothing: it writes `ERR <- 5` and leaves all other state
as it was; `wdata[31:8]` is ignored. (The bytes 0x10 to 0x70 are among them by R82: log 11.) -/
def Obligations.IllegalCommandWritesErrOnly : Prop :=
  (∀ (s : State) (v : Word), s.nextEvent = .host (.write 0x00#7 v) → s.blk.busy = false →
    legalByte (commandByte v) = false → step s = .next (s.advance.withBlk { s.blk with err := .illegalCmd })) ∧
    ∀ v : Word, commandByte v = BitVec.ofNat 8 (v.toNat % 256)

/-- R85: the divisor of each select code, and no divisor for 0, 6 and 7. Which code means which divisor is the spec's own from
general knowledge (log 19). -/
def Obligations.SelectCodesNameTheDivisors : Prop :=
  ((prescalerOf 1#3).bind divisor = some 1 ∧ (prescalerOf 2#3).bind divisor = some 8 ∧
    (prescalerOf 3#3).bind divisor = some 64 ∧ (prescalerOf 4#3).bind divisor = some 256 ∧
      (prescalerOf 5#3).bind divisor = some 1024) ∧
    prescalerOf 0#3 = none ∧ prescalerOf 6#3 = none ∧ prescalerOf 7#3 = none ∧ divisor .stopped = none ∧
      ∀ (ps : BitVec 3) (p : Prescaler), prescalerOf ps = some p → prescalerCode p = ps

/-! ### A step runs one input -/

/-- The model's schedule (log 3): a step consumes the oldest input placed, or, if none is left, a free one. -/
def Obligations.StepConsumesOldestInputOrFreeOne : Prop :=
  (∀ (s : State) (e : Event) (es : List Event), s.events = e :: es → step s = runEvent e { s with events := es }) ∧
    ∀ s : State, s.events = [] → step s = runEvent (Config.freeEvent s.drawn) { s with drawn := s.drawn + 1 }

/-- R71, R81: a command is taken from `wdata[7:0]` at the step that writes `CMD` and decoded at that step: when that byte is
the command `i`, the step is `exec i`, the input being consumed. The model takes `exec i` to be the whole of that write, the
check of `BUSY` included (log 7): while a command runs it changes nothing. -/
def Obligations.StepRunsTheDecodedCommand : Prop :=
  ∀ (s : State) (v : Word) (i : Instr), s.nextEvent = .host (.write 0x00#7 v) →
    decode (BitVec.ofNat 8 (v.toNat % 256)) = .command i →
      step s = exec i s.advance ∧ (s.blk.busy = true → exec i s = .next s)

/-! ### The host port -/

/-- R61: the content column of the register map, word by word; `_LO` and `_HI` are the low and the high word. -/
def Obligations.RegisterMapContents : Prop :=
  ∀ (p : Params) (b : Block),
    regRead p b 0x00#7 = 0#32 ∧ regRead p b 0x04#7 = status b ∧ regRead p b 0x08#7 = b.clkhz ∧
    regRead p b 0x0C#7 = b.duration ∧ regRead p b 0x10#7 = b.timeout ∧
    regRead p b 0x18#7 = BitVec.ofNat 32 b.time.toNat ∧ regRead p b 0x1C#7 = BitVec.ofNat 32 (b.time.toNat / 4294967296) ∧
    regRead p b 0x20#7 = BitVec.ofNat 32 b.dist.toNat ∧ regRead p b 0x24#7 = BitVec.ofNat 32 (b.dist.toNat / 4294967296) ∧
    regRead p b 0x28#7 = BitVec.ofNat 32 b.speed.toNat ∧ regRead p b 0x2C#7 = BitVec.ofNat 32 (b.speed.toNat / 4294967296) ∧
    regRead p b 0x30#7 = BitVec.ofNat 32 b.dist1.toNat ∧ regRead p b 0x34#7 = BitVec.ofNat 32 (b.dist1.toNat / 4294967296) ∧
    regRead p b 0x38#7 = BitVec.ofNat 32 b.startT.toNat ∧ regRead p b 0x3C#7 = BitVec.ofNat 32 (b.startT.toNat / 4294967296) ∧
    regRead p b 0x40#7 = BitVec.ofNat 32 b.endT.toNat ∧ regRead p b 0x44#7 = BitVec.ofNat 32 (b.endT.toNat / 4294967296) ∧
    regRead p b 0x48#7 = BitVec.ofNat 32 b.cnt.toNat ∧ regRead p b 0x4C#7 = b.ovf ∧ regRead p b 0x50#7 = p.dtUs ∧
    regRead p b 0x54#7 = p.sos ∧ regRead p b 0x58#7 = seqst b ∧
    ∀ off : Offset, off ∉ [0x00#7, 0x04#7, 0x08#7, 0x0C#7, 0x10#7, 0x18#7, 0x1C#7, 0x20#7, 0x24#7, 0x28#7, 0x2C#7, 0x30#7,
      0x34#7, 0x38#7, 0x3C#7, 0x40#7, 0x44#7, 0x48#7, 0x4C#7, 0x50#7, 0x54#7, 0x58#7] → regRead p b off = 0#32

/-- R62: a read returns the register as it is at this step, 0 at a misaligned offset, and changes no state at any offset,
also while `BUSY = 1` and `OVP = 1`. The word goes to the model's record of port `rdata` (log 6). -/
def Obligations.ReadReturnsTheWordAndChangesNoState : Prop :=
  (∀ (s : State) (off : Offset), s.nextEvent = .host (.read off) →
    step s = .next { s.advance with rdata := regRead s.params s.blk off }) ∧
    ∀ (p : Params) (b : Block) (off : Offset), off.toNat % 4 ≠ 0 → regRead p b off = 0#32

/-- R86: the layout of `STATUS`, field by field, the reserved bits 0, and the values of its coded fields. -/
def Obligations.StatusLayout : Prop :=
  (∀ b : Block,
    (status b).getLsbD 0 = b.busy ∧ (status b).getLsbD 1 = b.cfgd ∧ (status b).getLsbD 2 = b.oie ∧
    (status b).getLsbD 3 = b.ovp ∧ (status b).extractLsb' 4 3 = phase b.site ∧ (status b).getLsbD 7 = b.trig ∧
    (status b).extractLsb' 8 3 = opCode b.op ∧ (status b).getLsbD 11 = b.sample ∧
    (status b).extractLsb' 12 2 = resCode b.res ∧ (status b).getLsbD 14 = b.tok ∧ (status b).getLsbD 15 = false ∧
    (status b).extractLsb' 16 3 = errCode b.err ∧ (status b).getLsbD 19 = false ∧ (status b).getLsbD 20 = b.fLost ∧
    (status b).getLsbD 21 = b.fOvfwrap ∧ (status b).getLsbD 22 = b.fRange ∧
    (status b).extractLsb' 23 3 = prescalerCode b.ps ∧ (status b).extractLsb' 26 6 = 0#6) ∧
  [Site.idle, .trigOn, .ref, .start, .done, .timedOut].map (fun x => (phase x).toNat) = List.range 6 ∧
  [Op.none, .configure, .rdtime, .delay, .measure, .mspeed].map (fun x => (opCode x).toNat) = List.range 6 ∧
  [Res.none, .valid, .timeout, .indet].map (fun x => (resCode x).toNat) = List.range 4 ∧
  [Err.none, .cfgPrescaler, .cfgClock, .cfgAgain, .notConfigured, .illegalCmd].map (fun x => (errCode x).toNat) =
    List.range 6 ∧
  [Prescaler.stopped, .div1, .div8, .div64, .div256, .div1024].map (fun x => (prescalerCode x).toNat) = List.range 6

/-- R51: `SEQST` holds the code of `SITE` in bits 4:0 and `RP` in bits 6:5, all other bits 0, and is 0 after reset; the codes
of the twenty sites are 0 to 19 in the order of R88. -/
def Obligations.SeqstLayoutAndSiteCodes : Prop :=
  (∀ b : Block, regRead State.reset.params b 0x58#7 = seqst b ∧
    (seqst b).toNat = (siteCode b.site).toNat + 32 * b.rp.toNat) ∧ seqst State.reset.blk = 0#32 ∧
    [Site.idle, .ct, .dlRst, .dl, .trigOn, .tpRst, .tp, .trigOff, .ref, .rPin, .r, .start, .fPin, .f, .endRead, .done,
      .timedOut, .gapRst, .gap, .speed].map (fun s => (siteCode s).toNat) = List.range 20

/-- R89: `PHASE` of each of the twenty sites. -/
def Obligations.PhaseOfEachSite : Prop :=
  (∀ s ∈ [Site.trigOn, .tpRst, .tp, .trigOff], phase s = 1#3) ∧ (∀ s ∈ [Site.ref, .rPin, .r], phase s = 2#3) ∧
    (∀ s ∈ [Site.start, .fPin, .f, .endRead], phase s = 3#3) ∧ phase .done = 4#3 ∧ phase .timedOut = 5#3 ∧
      ∀ s ∈ [Site.idle, .ct, .dlRst, .dl, .gapRst, .gap, .speed], phase s = 0#3

/-- R63: `RegWrite(off, v)`, all its arms: nothing while `BUSY = 1` or at a misaligned offset; a command at 0x00; `CLKHZ`
while `CFGD = 0`; `DURATION`; `TIMEOUT`; nothing at every other offset and for `CLKHZ` after CONFIGURE. -/
def Obligations.WriteStoresOperandRunsCommandOrNothing : Prop :=
  ∀ (s : State) (off : Offset) (v : Word), s.nextEvent = .host (.write off v) →
    (s.blk.busy = true → step s = .next s.advance) ∧
    (s.blk.busy = false →
      (off.toNat % 4 ≠ 0 → step s = .next s.advance) ∧
      (off = 0x00#7 → step s = match decode (commandByte v) with
        | .command i => exec i s.advance
        | .illegal _ => .next (s.advance.withBlk { s.blk with err := .illegalCmd })) ∧
      (off = 0x08#7 → s.blk.cfgd = false → step s = .next (s.advance.withBlk { s.blk with clkhz := v })) ∧
      (off = 0x08#7 → s.blk.cfgd = true → step s = .next s.advance) ∧
      (off = 0x0C#7 → step s = .next (s.advance.withBlk { s.blk with duration := v })) ∧
      (off = 0x10#7 → step s = .next (s.advance.withBlk { s.blk with timeout := v })) ∧
      (off ∉ [0x00#7, 0x08#7, 0x0C#7, 0x10#7] → step s = .next s.advance))

/-- R206: a write to any register while `BUSY = 1` has no effect and leaves no trace, `ERR` included, nor in any readable
word. -/
def Obligations.WritesWhileBusyVanish : Prop :=
  ∀ (s : State) (off : Offset) (v : Word), s.nextEvent = .host (.write off v) → s.blk.busy = true →
    step s = .next s.advance ∧ s.advance.blk = s.blk ∧ s.advance.params = s.params ∧ s.advance.rdata = s.rdata

/-- R71, R23: while a command runs, and for `CLKHZ` and `PS` also after it, no step but reset changes an operand of the
conversions: `DURATION`, `TIMEOUT`, `CLKHZ`, `PS`. -/
def Obligations.OperandsCannotChangeWhileACommandRuns : Prop :=
  ∀ s t : State, s.nextEvent ≠ .reset → step s = .next t →
    (s.blk.busy = true → t.blk.duration = s.blk.duration ∧ t.blk.timeout = s.blk.timeout) ∧
      (s.blk.cfgd = true → t.blk.clkhz = s.blk.clkhz ∧ t.blk.ps = s.blk.ps)

/-! ### The acceptance of the commands -/

/-- R120: CONFIGURE while `BUSY = 0`: the three errors in their order, each changing `ERR` only, and the success, for the
prescaler whose code is `ps`. -/
def Obligations.ConfigureRejectsInOrderOrConfigures : Prop :=
  ∀ (ps : BitVec 3) (s : State), s.blk.busy = false →
    (s.blk.cfgd = true → exec (.configure ps) s = .next (s.withBlk { s.blk with err := .cfgAgain })) ∧
    (s.blk.cfgd = false → ps ∉ [1#3, 2#3, 3#3, 4#3, 5#3] →
      exec (.configure ps) s = .next (s.withBlk { s.blk with err := .cfgPrescaler })) ∧
    (s.blk.cfgd = false → ps ∈ [1#3, 2#3, 3#3, 4#3, 5#3] → s.blk.clkhz = 0#32 →
      exec (.configure ps) s = .next (s.withBlk { s.blk with err := .cfgClock })) ∧
    (s.blk.cfgd = false → ps ∈ [1#3, 2#3, 3#3, 4#3, 5#3] → s.blk.clkhz ≠ 0#32 →
      ∃ p : Prescaler, prescalerCode p = ps ∧ exec (.configure ps) s = .next (s.withBlk { s.blk with
        ps := p, cnt := 0#16, ovf := 0#32, ovp := false, oie := true, cfgd := true, op := .configure, err := .none }))

/-- R121: `Start(op, site, rp)` of RDTIME, DELAY, MEASURE and MSPEED while `BUSY = 0`, with the arguments R81 gives each. -/
def Obligations.TimingCommandsStartOrAreRefused : Prop :=
  ∀ s : State, s.blk.busy = false →
    ∀ c ∈ [(Instr.rdtime, Op.rdtime, Site.ct, 1#2), (.delay, .delay, .dlRst, 0#2), (.measure, .measure, .trigOn, 0#2),
      (.mspeed, .mspeed, .trigOn, 0#2)],
      (s.blk.cfgd = false → exec c.1 s = .next (s.withBlk { s.blk with err := .notConfigured })) ∧
      (s.blk.cfgd = true → exec c.1 s = .next (s.withBlk { s.blk with
        err := .none, busy := true, op := c.2.1, sample := false, res := .none, site := c.2.2.1, rp := c.2.2.2 }))

/-- The frame of CONFIGURE: every register but the counters, the Timer's control bits, `OP` and `ERR` is unchanged, and so is
every readable word but `STATUS`, `CNTR` and `OVFR`. -/
def Obligations.ConfigureFrame : Prop :=
  ∀ (ps : BitVec 3) (s t : State), exec (.configure ps) s = .next t →
    t = s.withBlk { s.blk with
      ps := t.blk.ps, cnt := t.blk.cnt, ovf := t.blk.ovf, ovp := t.blk.ovp, oie := t.blk.oie, cfgd := t.blk.cfgd,
      op := t.blk.op, err := t.blk.err } ∧
    ∀ off : Offset, off ∉ [0x04#7, 0x48#7, 0x4C#7] → regRead t.params t.blk off = regRead s.params s.blk off

/-- The frame of RDTIME, DELAY, MEASURE and MSPEED at their acceptance: only `ERR`, `BUSY`, `OP`, `SAMPLE`, `RES` and the
position change ("The result registers keep their old contents", R121), and every readable word but `STATUS` and `SEQST` is
unchanged. -/
def Obligations.TimingCommandFrame : Prop :=
  ∀ (i : Instr) (s t : State), i ∈ [Instr.rdtime, .delay, .measure, .mspeed] → exec i s = .next t →
    t = s.withBlk { s.blk with
      err := t.blk.err, busy := t.blk.busy, op := t.blk.op, sample := t.blk.sample, res := t.blk.res, site := t.blk.site,
      rp := t.blk.rp } ∧
    ∀ off : Offset, off ∉ [0x04#7, 0x58#7] → regRead t.params t.blk off = regRead s.params s.blk off

/-- R46, R180: `ERR` is written by `CMD` writes not ignored for `BUSY` (and by reset) and by no other step. -/
def Obligations.OnlyCommandWritesChangeErr : Prop :=
  ∀ s t : State, step s = .next t → t.blk.err ≠ s.blk.err →
    s.nextEvent = .reset ∨ (s.blk.busy = false ∧ ∃ v, s.nextEvent = .host (.write 0x00#7 v))

/-! ### The counter and the overflow interrupt -/

/-- R100: `TICK` is enabled exactly when `PS` is 1 to 5; then at `MAXC` it wraps and raises the request, and a wrap while a
request is pending is lost; otherwise it counts. -/
def Obligations.TickCountsWrapsAndRaisesTheRequest : Prop :=
  (∀ b : Block, b.tickEnabled = true ↔ prescalerCode b.ps ∈ [1#3, 2#3, 3#3, 4#3, 5#3]) ∧
  ∀ s : State, s.nextEvent = .tick → prescalerCode s.blk.ps ∈ [1#3, 2#3, 3#3, 4#3, 5#3] →
    (s.blk.cnt.toNat = (if s.params.width = .w8 then 255 else 65535) →
      (s.blk.ovp = true → step s = .next (s.advance.withBlk { s.blk with cnt := 0#16, fLost := true, ovp := true })) ∧
      (s.blk.ovp = false → step s = .next (s.advance.withBlk { s.blk with cnt := 0#16, ovp := true }))) ∧
    (s.blk.cnt.toNat ≠ (if s.params.width = .w8 then 255 else 65535) →
      step s = .next (s.advance.withBlk { s.blk with cnt := s.blk.cnt + 1#16 }))

/-- R102: `OVH` is enabled exactly when `OVP = 1` and `OIE = 1`; then it increments `OVF`, flags its wrap, clears the request
and touches nothing else. -/
def Obligations.OverflowHandlerIncrementsOnce : Prop :=
  (∀ b : Block, b.ovhEnabled = true ↔ b.ovp = true ∧ b.oie = true) ∧
  ∀ s : State, s.nextEvent = .ovh → s.blk.ovp = true → s.blk.oie = true →
    (s.blk.ovf.toNat = 4294967295 →
      step s = .next (s.advance.withBlk { s.blk with ovf := 0#32, fOvfwrap := true, ovp := false })) ∧
    (s.blk.ovf.toNat ≠ 4294967295 →
      step s = .next (s.advance.withBlk { s.blk with ovf := s.blk.ovf + 1#32, ovp := false }))

/-- R104, R186 a, R100, R102: an agent that is not enabled makes no step: `SEQ` while no command runs or an enabled overflow
request is pending, `OVH` without an enabled request, `TICK` while the clock is stopped. That such an agent's event then
changes nothing is the model's choice (log 4). -/
def Obligations.DisabledAgentsChangeNothing : Prop :=
  ∀ s : State,
    (∀ echo, s.nextEvent = .seq echo → (s.blk.busy = false ∨ (s.blk.ovp = true ∧ s.blk.oie = true)) →
      step s = .next s.advance) ∧
    (s.nextEvent = .ovh → (s.blk.ovp = false ∨ s.blk.oie = false) → step s = .next s.advance) ∧
    (s.nextEvent = .tick → prescalerCode s.blk.ps = 0#3 → step s = .next s.advance)

/-- R70, R190: `OVF` is modified by the handler's increment and by the zeroing steps only. -/
def Obligations.OnlyHandlerAndZeroModifyOvf : Prop :=
  ∀ s t : State, step s = .next t → t.blk.ovf ≠ s.blk.ovf →
    (s.nextEvent = .ovh ∧ s.blk.ovp = true ∧ s.blk.oie = true) ∨ (s.zeroes = true ∧ t.blk.ovf = 0#32)

/-- R184: each fault bit is set only by the step R184 names, on the condition it names for the two count faults. -/
def Obligations.FaultBitsAreSetOnlyByTheirSteps : Prop :=
  ∀ s t : State, step s = .next t →
    (s.blk.fLost = false → t.blk.fLost = true →
      s.nextEvent = .tick ∧ s.blk.ovp = true ∧ s.blk.cnt.toNat = (if s.params.width = .w8 then 255 else 65535)) ∧
    (s.blk.fOvfwrap = false → t.blk.fOvfwrap = true → s.nextEvent = .ovh ∧ s.blk.ovf.toNat = 4294967295) ∧
    (s.blk.fRange = false → t.blk.fRange = true →
      (∃ echo, s.nextEvent = .seq echo) ∧ (s.blk.site = .ct ∨ s.blk.site = .done ∨ s.blk.site = .speed))

/-! ### Conversions -/

/-- R110, R111, R157: the worked examples of the rules. -/
def Obligations.ConversionExamplesOfTheSpec : Prop :=
  ticks .w16 1#32 0#16 = 65536 ∧ timeUs 8 16000000 65536 = 32768 ∧ timeUs 8 16000000 65535 = 32767 ∧
    distUm 8 16000000 343000 500 23700 = 1989400 ∧ distUm 1 16000000 343000 0 1 = 10 ∧
      speedUmPerS 1000000 2000000 1800000 = -200000 ∧ speedUmPerS 3000000 1 0 = -1 ∧ speedUmPerS 2000000 7 0 = -4 ∧
        reached 8 16000000 20 10 = true ∧ reached 8 16000000 19 10 = false ∧ exceeded 8 16000000 60000 30000 = false ∧
          exceeded 8 16000000 60001 30000 = true

/-- R112: with N = 16 and `CLKHZ ≥ 16384` every `TimeUs` fits its register, whatever the counters and the prescaler. -/
def Obligations.TimeFitsForClockFrom16384 : Prop :=
  ∀ (o : Word) (c : BitVec 16) (p : Prescaler) (d : Nat) (clk : Word), divisor p = some d → 16384 ≤ clk.toNat →
    0 ≤ timeUs d clk.toNat (ticks .w16 o c) ∧ timeUs d clk.toNat (ticks .w16 o c) < 18446744073709551616 ∧
      fitsU64 (timeUs d clk.toNat (ticks .w16 o c)) = true

/-- R12, R110, R111: the exact time of the counters is `(k * (MAXC + 1) + r) * DIV / CLKHZ` seconds; `TimeUs` is the floor of
its microseconds, the largest whole number not above them; `Reached` and `Exceeded` compare it unrounded; `DistUm` is the floor
of the distance travelled in the exact time between two readings, also where that time is negative. -/
def Obligations.TimeUsIsTheFloorOfTheExactTime : Prop :=
  ∀ d clk : Nat, 0 < clk →
    (∀ (w : CounterWidth) (k : Word) (r : BitVec 16), timeSec d clk (ticks w k r) * (clk : Rat) =
      (((k.toNat * (if w = .w8 then 256 else 65536) + r.toNat) * d : Nat) : Rat)) ∧
    (∀ t : Nat, timeUs d clk t = (timeSec d clk t * 1000000).floor ∧
      timeUs d clk t * clk ≤ (t : Int) * d * 1000000 ∧ (t : Int) * d * 1000000 < (timeUs d clk t + 1) * clk) ∧
    (∀ (t : Int) (us : Nat), (reached d clk t us = true ↔ (us : Rat) ≤ timeSec d clk t * 1000000) ∧
      (exceeded d clk t us = true ↔ (us : Rat) < timeSec d clk t * 1000000)) ∧
    ∀ sos a b : Nat, distUm d clk sos a b = (timeSec d clk ((b : Int) - a) * (sos : Rat) / 2 * 1000).floor

/-! ### The paired read, RDTIME and DELAY -/

/-- R107, R41: the first two steps of the paired read at every reading site, and the retry when `OVF` has moved. -/
def Obligations.PairedReadReadsTwiceAndRetries : Prop :=
  ∀ (s : State) (site : Site) (echo : Bool), s.SeqAt site echo →
    site ∈ [Site.ct, .dl, .tp, .ref, .r, .start, .f, .endRead, .gap] →
      (s.blk.rp = 1#2 → step s = .next (s.advance.withBlk { s.blk with o1 := s.blk.ovf, rp := 2#2 })) ∧
      (s.blk.rp = 2#2 → step s = .next (s.advance.withBlk { s.blk with c1 := s.blk.cnt, rp := 3#2 })) ∧
      (s.blk.rp = 3#2 → s.blk.ovf ≠ s.blk.o1 → step s = .next (s.advance.withBlk { s.blk with rp := 1#2 }))

/-- R123: RDTIME's acceptance, and the last step of its one site: `TIME` is the whole microseconds of `T` modulo 2^64,
`F_RANGE` is set when they do not fit, `RES <- 1`, finish; everything else is as it was. -/
def Obligations.RdtimeStoresTheTimeAndFinishes : Prop :=
  (∀ s : State, s.blk.busy = false → s.blk.cfgd = true → exec .rdtime s = .next (s.withBlk { s.blk with
    err := .none, busy := true, op := .rdtime, sample := false, res := .none, site := .ct, rp := 1#2 })) ∧
  ∀ (s : State) (t d : Nat), s.ReadsAt .ct t → divisor s.blk.ps = some d → s.blk.clkhz ≠ 0#32 →
    step s = .next (s.advance.withBlk { s.blk with
      time := BitVec.ofNat 64 (t * d * 1000000 / s.blk.clkhz.toNat),
      fRange := s.blk.fRange || decide (2 ^ 64 ≤ t * d * 1000000 / s.blk.clkhz.toNat),
      res := .valid, busy := false, site := .idle, rp := 0#2 })

/-- R124: DELAY's acceptance and its first step, which zeroes the counters. -/
def Obligations.DelayStartsByZeroingTheCounters : Prop :=
  (∀ s : State, s.blk.busy = false → s.blk.cfgd = true → exec .delay s = .next (s.withBlk { s.blk with
    err := .none, busy := true, op := .delay, sample := false, res := .none, site := .dlRst, rp := 0#2 })) ∧
  ∀ (s : State) (echo : Bool), s.SeqAt .dlRst echo → step s = .next (s.advance.withBlk { s.blk with
    cnt := 0#16, ovf := 0#32, ovp := false, site := .dl, rp := 1#2 })

/-- R125: DELAY ends at the first reading whose time is at least `DURATION`, with `RES <- 1`, and reads again otherwise. -/
def Obligations.DelayEndsExactlyWhenReached : Prop :=
  ∀ (s : State) (t d : Nat), s.ReadsAt .dl t → divisor s.blk.ps = some d →
    (s.blk.duration.toNat * s.blk.clkhz.toNat ≤ t * d * 1000000 →
      step s = .next (s.advance.withBlk { s.blk with res := .valid, busy := false, site := .idle, rp := 0#2 })) ∧
    (t * d * 1000000 < s.blk.duration.toNat * s.blk.clkhz.toNat →
      step s = .next (s.advance.withBlk { s.blk with rp := 1#2 }))

/-! ### The sites of a measurement -/

/-- R143, R144, R145: the trigger pulse: `TRIG <- 1`, the zeroing, the delay of `TRIG_US`, `TRIG <- 0`. -/
def Obligations.TriggerPulseLastsTheDelay : Prop :=
  (∀ (s : State) (echo : Bool), s.SeqAt .trigOn echo →
    step s = .next (s.advance.withBlk { s.blk with trig := true, site := .tpRst, rp := 0#2 })) ∧
  (∀ (s : State) (echo : Bool), s.SeqAt .tpRst echo →
    step s = .next (s.advance.withBlk { s.blk with cnt := 0#16, ovf := 0#32, ovp := false, site := .tp, rp := 1#2 })) ∧
  (∀ (s : State) (t d : Nat), s.ReadsAt .tp t → divisor s.blk.ps = some d →
    (s.params.trigUs * s.blk.clkhz.toNat ≤ t * d * 1000000 →
      step s = .next (s.advance.withBlk { s.blk with site := .trigOff, rp := 0#2 })) ∧
    (t * d * 1000000 < s.params.trigUs * s.blk.clkhz.toNat →
      step s = .next (s.advance.withBlk { s.blk with rp := 1#2 }))) ∧
  ∀ (s : State) (echo : Bool), s.SeqAt .trigOff echo →
    step s = .next (s.advance.withBlk { s.blk with trig := false, site := .ref, rp := 1#2 })

/-- R146, R150, R158: the three recorded readings, each the exact tick count of its paired read, not truncated by the 48
bits of the register. -/
def Obligations.RecordedReadingsAreExact : Prop :=
  (∀ (s : State) (t : Nat), s.ReadsAt .ref t → ∃ r : TickReg, r.toNat = t ∧
    step s = .next (s.advance.withBlk { s.blk with refT := r, site := .rPin, rp := 0#2 })) ∧
  (∀ (s : State) (t : Nat), s.ReadsAt .start t → ∃ r : TickReg, r.toNat = t ∧
    step s = .next (s.advance.withBlk { s.blk with startT := r, site := .fPin, rp := 0#2 })) ∧
  ∀ (s : State) (t : Nat), s.ReadsAt .endRead t → ∃ r : TickReg, r.toNat = t ∧
    step s = .next (s.advance.withBlk { s.blk with endT := r, site := .done, rp := 0#2 })

/-- R148, R151: the pin is looked at first: a sampled rise goes to `S_START`, a sampled fall to `S_END`, and otherwise the
bound is checked. -/
def Obligations.PinSamplesDecideTheWaits : Prop :=
  (∀ s : State, s.SeqAt .rPin true → step s = .next (s.advance.withBlk { s.blk with site := .start, rp := 1#2 })) ∧
  (∀ s : State, s.SeqAt .rPin false → step s = .next (s.advance.withBlk { s.blk with site := .r, rp := 1#2 })) ∧
  (∀ s : State, s.SeqAt .fPin false → step s = .next (s.advance.withBlk { s.blk with site := .endRead, rp := 1#2 })) ∧
  ∀ s : State, s.SeqAt .fPin true → step s = .next (s.advance.withBlk { s.blk with site := .f, rp := 1#2 })

/-- R149: the rise wait times out exactly when the time since `REF` exceeds `TIMEOUT`. -/
def Obligations.RiseWaitTimesOutWhenExceeded : Prop :=
  ∀ (s : State) (t d : Nat), s.ReadsAt .r t → divisor s.blk.ps = some d →
    (((t : Int) - s.blk.refT.toNat) * d * 1000000 > s.blk.timeout.toNat * s.blk.clkhz.toNat →
      step s = .next (s.advance.withBlk { s.blk with tok := false, site := .timedOut, rp := 0#2 })) ∧
    (((t : Int) - s.blk.refT.toNat) * d * 1000000 ≤ s.blk.timeout.toNat * s.blk.clkhz.toNat →
      step s = .next (s.advance.withBlk { s.blk with site := .rPin, rp := 0#2 }))

/-- R152: the fall wait times out exactly when the time since `START` exceeds `TIMEOUT`. -/
def Obligations.FallWaitTimesOutWhenExceeded : Prop :=
  ∀ (s : State) (t d : Nat), s.ReadsAt .f t → divisor s.blk.ps = some d →
    (((t : Int) - s.blk.startT.toNat) * d * 1000000 > s.blk.timeout.toNat * s.blk.clkhz.toNat →
      step s = .next (s.advance.withBlk { s.blk with tok := true, site := .timedOut, rp := 0#2 })) ∧
    (((t : Int) - s.blk.startT.toNat) * d * 1000000 ≤ s.blk.timeout.toNat * s.blk.clkhz.toNat →
      step s = .next (s.advance.withBlk { s.blk with site := .fPin, rp := 0#2 }))

/-- R153, R111, R112: the distance, floored once toward minus infinity and stored modulo 2^64 with `F_RANGE` when it does
not fit; MEASURE finishes with it, MSPEED keeps it as its first or second sample. -/
def Obligations.DoneDeliversTheDistance : Prop :=
  ∀ (s : State) (echo : Bool) (d : Nat) (v : Int), s.SeqAt .done echo → divisor s.blk.ps = some d → s.blk.clkhz ≠ 0#32 →
    v = Int.fdiv (((s.blk.endT.toNat : Int) - s.blk.startT.toNat) * d * s.params.sos.toNat * 1000)
      (2 * s.blk.clkhz.toNat) →
    ∀ wide : Bool, wide = (s.blk.fRange || decide (v < -9223372036854775808 ∨ 9223372036854775807 < v)) →
      (s.blk.op = .measure → step s = .next (s.advance.withBlk { s.blk with
        dist := BitVec.ofInt 64 v, fRange := wide, res := .valid, busy := false, site := .idle, rp := 0#2 })) ∧
      (s.blk.op ≠ .measure → s.blk.sample = false → step s = .next (s.advance.withBlk { s.blk with
        dist1 := BitVec.ofInt 64 v, fRange := wide, site := .gapRst, rp := 0#2 })) ∧
      (s.blk.op ≠ .measure → s.blk.sample = true → step s = .next (s.advance.withBlk { s.blk with
        dist := BitVec.ofInt 64 v, fRange := wide, site := .speed, rp := 0#2 }))

/-- R154: the sentinel −1; nothing else happens on a timeout: the clock, the counters, `ERR` and `TRIG` are untouched. -/
def Obligations.TimeoutDeliversTheSentinel : Prop :=
  ∀ (s : State) (echo : Bool), s.SeqAt .timedOut echo →
    (s.blk.op = .measure → step s = .next (s.advance.withBlk { s.blk with
      dist := 0xFFFFFFFFFFFFFFFF#64, res := .timeout, busy := false, site := .idle, rp := 0#2 })) ∧
    (s.blk.op ≠ .measure → s.blk.sample = false → step s = .next (s.advance.withBlk { s.blk with
      dist1 := 0xFFFFFFFFFFFFFFFF#64, site := .gapRst, rp := 0#2 })) ∧
    (s.blk.op ≠ .measure → s.blk.sample = true → step s = .next (s.advance.withBlk { s.blk with
      dist := 0xFFFFFFFFFFFFFFFF#64, site := .speed, rp := 0#2 }))

/-- R156: the gap of MSPEED: zeroing, a delay of `DT_US`, then the second measurement with `SAMPLE <- 1`. -/
def Obligations.GapDelaysTheSecondSample : Prop :=
  (∀ (s : State) (echo : Bool), s.SeqAt .gapRst echo →
    step s = .next (s.advance.withBlk { s.blk with cnt := 0#16, ovf := 0#32, ovp := false, site := .gap, rp := 1#2 })) ∧
  ∀ (s : State) (t d : Nat), s.ReadsAt .gap t → divisor s.blk.ps = some d →
    (s.params.dtUs.toNat * s.blk.clkhz.toNat ≤ t * d * 1000000 →
      step s = .next (s.advance.withBlk { s.blk with sample := true, site := .trigOn, rp := 0#2 })) ∧
    (t * d * 1000000 < s.params.dtUs.toNat * s.blk.clkhz.toNat →
      step s = .next (s.advance.withBlk { s.blk with rp := 1#2 }))

/-- R157: the marker with `RES = 3` when either sample is the sentinel, otherwise the floored speed with `RES = 1`. -/
def Obligations.SpeedIsTheFlooredDifferenceOrTheMarker : Prop :=
  ∀ (s : State) (echo : Bool) (v : Int), s.SeqAt .speed echo → s.params.dtUs ≠ 0#32 →
    v = Int.fdiv ((s.blk.dist.toInt - s.blk.dist1.toInt) * 1000000) s.params.dtUs.toNat →
      ((s.blk.dist1.toInt = -1 ∨ s.blk.dist.toInt = -1) → step s = .next (s.advance.withBlk { s.blk with
        speed := 0x8000000000000000#64, res := .indet, busy := false, site := .idle, rp := 0#2 })) ∧
      (s.blk.dist1.toInt ≠ -1 → s.blk.dist.toInt ≠ -1 → step s = .next (s.advance.withBlk { s.blk with
        speed := BitVec.ofInt 64 v,
        fRange := s.blk.fRange || decide (v < -9223372036854775808 ∨ 9223372036854775807 < v),
        res := .valid, busy := false, site := .idle, rp := 0#2 }))

/-! ### The state machine -/

/-- R142: every `SEQ` step inside a measurement stays at its site or follows a row of the transition relation; no other
transition exists. -/
def Obligations.MeasurementFollowsTheTransitionRelation : Prop :=
  ∀ (s t : State) (site : Site) (echo : Bool), s.SeqAt site echo → phase site ≠ 0#3 → step s = .next t →
    (isReading site = true ∧ t.blk.site = site) ∨
      (site, t.blk.site) ∈ [(Site.trigOn, Site.tpRst), (.tpRst, .tp), (.tp, .trigOff), (.trigOff, .ref), (.ref, .rPin),
        (.rPin, .start), (.rPin, .r), (.r, .timedOut), (.r, .rPin), (.start, .fPin), (.fPin, .endRead), (.fPin, .f),
        (.f, .timedOut), (.f, .fPin), (.endRead, .done), (.done, .idle), (.done, .gapRst), (.done, .speed),
        (.timedOut, .idle), (.timedOut, .gapRst), (.timedOut, .speed)]

/-- R140: the six phases follow the source's chain, with the arc from the rise wait to the timeout; after DONE and after
TIMEOUT the machine is in IDLE again. -/
def Obligations.PhasesFollowTheChain : Prop :=
  ∀ s t : State, Legal s.params s.blk → s.nextEvent ≠ .reset → step s = .next t →
    phase t.blk.site = phase s.blk.site ∨
      (phase s.blk.site, phase t.blk.site) ∈
        [(0#3, 1#3), (1#3, 2#3), (2#3, 3#3), (2#3, 5#3), (3#3, 4#3), (3#3, 5#3), (4#3, 0#3), (5#3, 0#3)]

/-- R147: the block samples the pin only at `S_R_PIN` and `S_F_PIN`: at every other site the level of `echo_in` has no
effect on the step. -/
def Obligations.EchoMattersOnlyAtThePinSites : Prop :=
  ∀ (s : State) (es : List Event), s.blk.site ≠ .rPin → s.blk.site ≠ .fPin →
    step { s with events := .seq true :: es } = step { s with events := .seq false :: es }

/-! ### Invariants -/

/-- R55 at reset, with the parameter values of R5 (log 2). -/
def Obligations.ResetIsLegal : Prop := Legal State.reset.params State.reset.blk

/-- R55, with R21, R31, R32, R34 to R36, R41, R44, R48: every step of every agent keeps the invariants. -/
def Obligations.EveryStepKeepsTheInvariants : Prop :=
  ∀ s t : State, Legal s.params s.blk → step s = .next t → Legal t.params t.blk

/-- In a state that meets the invariants no step ever stops: every input, in every interleaving, leads to a next state. It
excludes the model's refusals (log 10) in such states; the turn of an agent that is not enabled passes (log 4). -/
def Obligations.NoLegalStateStops : Prop :=
  ∀ s : State, Legal s.params s.blk → ∃ t, step s = .next t

/-- R196: when a command ends, `BUSY = 0`, `RES ≠ 0` and `TRIG = 0`, at `S_IDLE`, and neither `OP` nor `ERR` has changed. -/
def Obligations.CommandEndsWithAResultAndTriggerLow : Prop :=
  ∀ s t : State, Legal s.params s.blk → s.nextEvent ≠ .reset → step s = .next t → s.blk.busy = true →
    t.blk.busy = false →
      t.blk.res ≠ .none ∧ t.blk.trig = false ∧ t.blk.site = .idle ∧ t.blk.rp = 0#2 ∧ t.blk.op = s.blk.op ∧
        t.blk.err = s.blk.err

/-! ### Exactness of the count -/

/-- R55 i at reset: nothing counted. -/
def Obligations.ResetCountsAreExact : Prop := CountsExact State.reset ⟨0, 0⟩

/-- R55 i, R103, R109: every step keeps the block's counts, and the pair inside a paired read, equal to the onlooker's count
of `TICK` steps, in every interleaving, as long as `F_LOST` and `F_OVFWRAP` are 0. -/
def Obligations.EveryStepKeepsTheCountsExact : Prop :=
  ∀ (s t : State) (w : Watch), Legal s.params s.blk → CountsExact s w → step s = .next t → CountsExact t (w.after s)

/-- R109: the `T` that a paired read passes to `Exit_SITE` is the number of `TICK` steps between the last zeroing and its
step 2, `w.atRead`, at each of the nine reading sites: what the step stores, converts or compares is that count. -/
def Obligations.PairedReadIsExactAtItsSecondStep : Prop :=
  ∀ (s : State) (w : Watch) (echo : Bool) (d : Nat), Legal s.params s.blk → CountsExact s w →
    s.blk.fLost = false → s.blk.fOvfwrap = false → s.nextEvent = .seq echo → s.blk.seqEnabled = true →
    s.blk.rp = 3#2 → s.blk.ovf = s.blk.o1 → divisor s.blk.ps = some d →
      w.atRead ≤ w.ticks ∧ ∃ t, step s = .next t ∧
        (s.blk.site = .ref → t.blk.refT.toNat = w.atRead ∧ t.blk.site = .rPin) ∧
        (s.blk.site = .start → t.blk.startT.toNat = w.atRead ∧ t.blk.site = .fPin) ∧
        (s.blk.site = .endRead → t.blk.endT.toNat = w.atRead ∧ t.blk.site = .done) ∧
        (s.blk.site = .ct → t.blk.time = BitVec.ofNat 64 (w.atRead * d * 1000000 / s.blk.clkhz.toNat) ∧ t.blk.busy = false) ∧
        (s.blk.site = .dl →
          (t.blk.busy = false ↔ s.blk.duration.toNat * s.blk.clkhz.toNat ≤ w.atRead * d * 1000000)) ∧
        (s.blk.site = .tp →
          (t.blk.site = .trigOff ↔ s.params.trigUs * s.blk.clkhz.toNat ≤ w.atRead * d * 1000000)) ∧
        (s.blk.site = .gap →
          (t.blk.site = .trigOn ↔ s.params.dtUs.toNat * s.blk.clkhz.toNat ≤ w.atRead * d * 1000000)) ∧
        (s.blk.site = .r → (t.blk.site = .timedOut ↔
          ((w.atRead : Int) - s.blk.refT.toNat) * d * 1000000 > s.blk.timeout.toNat * s.blk.clkhz.toNat)) ∧
        (s.blk.site = .f → (t.blk.site = .timedOut ↔
          ((w.atRead : Int) - s.blk.startT.toNat) * d * 1000000 > s.blk.timeout.toNat * s.blk.clkhz.toNat))

/-- R126 a: DELAY never ends early: when it ends, the ticks since its zeroing have reached `DURATION`. -/
def Obligations.DelayNeverEndsEarly : Prop :=
  ∀ (s t : State) (w : Watch) (d : Nat), Legal s.params s.blk → CountsExact s w → s.blk.fLost = false →
    s.blk.fOvfwrap = false → s.nextEvent ≠ .reset → s.blk.op = .delay → s.blk.busy = true → step s = .next t →
      t.blk.busy = false → divisor s.blk.ps = some d →
        s.blk.duration.toNat * s.blk.clkhz.toNat ≤ w.atRead * d * 1000000 ∧ w.atRead ≤ w.ticks

/-- R114: between two zeroings, while no overflow is lost or wrapped, the elapsed ticks never decrease. -/
def Obligations.TimeIsMonotonicBetweenZeroings : Prop :=
  ∀ s t : State, Legal s.params s.blk → step s = .next t → s.zeroes = false → t.blk.fLost = false →
    t.blk.fOvfwrap = false → s.blk.elapsed s.params.width ≤ t.blk.elapsed t.params.width

/-! ### Whole commands without interruption -/

/-- R123, R107 a: RDTIME written to `CMD` and run by three `SEQ` steps with no other step between delivers the time of the
counters as they stand, and ends. -/
def Obligations.RdtimeDeliversInThreeSteps : Prop :=
  ∀ (s : State) (es : List Event) (e1 e2 e3 : Bool) (d : Nat),
    s.events = .host (.write 0x00#7 0x02#32) :: .seq e1 :: .seq e2 :: .seq e3 :: es → s.blk.busy = false →
      s.blk.cfgd = true → s.blk.ovp = false → divisor s.blk.ps = some d → s.blk.clkhz ≠ 0#32 →
        ∃ t : State, Host.Core.run core 4 s = .next t ∧ t.events = es ∧ t.blk.busy = false ∧ t.blk.res = .valid ∧ t.blk.op = .rdtime ∧
          t.blk.time = BitVec.ofNat 64 (ticks s.params.width s.blk.ovf s.blk.cnt * d * 1000000 / s.blk.clkhz.toNat) ∧
            t.blk.cnt = s.blk.cnt ∧ t.blk.ovf = s.blk.ovf

/-- R124, R125: DELAY with `DURATION = 0` ends at its first completed read, with no tick at all; with a longer `DURATION`
and no tick it reads again. -/
def Obligations.DelayOfZeroEndsAtItsFirstRead : Prop :=
  ∀ (s : State) (es : List Event) (e1 e2 e3 e4 : Bool),
    s.events = .host (.write 0x00#7 0x03#32) :: .seq e1 :: .seq e2 :: .seq e3 :: .seq e4 :: es → s.blk.busy = false →
      s.blk.cfgd = true → s.blk.ovp = false → s.blk.ps ≠ .stopped → s.blk.clkhz ≠ 0#32 →
        ∃ t : State, Host.Core.run core 5 s = .next t ∧ t.events = es ∧ t.blk.cnt = 0#16 ∧ t.blk.ovf = 0#32 ∧
          (s.blk.duration = 0#32 → t.blk.busy = false ∧ t.blk.res = .valid) ∧
            (s.blk.duration ≠ 0#32 → t.blk.busy = true ∧ t.blk.site = .dl ∧ t.blk.rp = 1#2)
end

