-- ==== Sys2Proof/Laws/State.lean ====
section
/-!
SUPPORT. What each field is after each named update of the state, one lemma per field per update, true by rfl, so that
no later proof unfolds a record update.
-/
namespace Sys2Proof.Machine

/-! ### `Block.zero` -/

@[simp] theorem Block.zero_cnt (b : Block) : (b.zero).cnt = 0#16 := rfl
@[simp] theorem Block.zero_ovf (b : Block) : (b.zero).ovf = 0#32 := rfl
@[simp] theorem Block.zero_clkhz (b : Block) : (b.zero).clkhz = b.clkhz := rfl
@[simp] theorem Block.zero_ps (b : Block) : (b.zero).ps = b.ps := rfl
@[simp] theorem Block.zero_ovp (b : Block) : (b.zero).ovp = false := rfl
@[simp] theorem Block.zero_oie (b : Block) : (b.zero).oie = b.oie := rfl
@[simp] theorem Block.zero_cfgd (b : Block) : (b.zero).cfgd = b.cfgd := rfl
@[simp] theorem Block.zero_duration (b : Block) : (b.zero).duration = b.duration := rfl
@[simp] theorem Block.zero_timeout (b : Block) : (b.zero).timeout = b.timeout := rfl
@[simp] theorem Block.zero_busy (b : Block) : (b.zero).busy = b.busy := rfl
@[simp] theorem Block.zero_op (b : Block) : (b.zero).op = b.op := rfl
@[simp] theorem Block.zero_sample (b : Block) : (b.zero).sample = b.sample := rfl
@[simp] theorem Block.zero_o1 (b : Block) : (b.zero).o1 = b.o1 := rfl
@[simp] theorem Block.zero_c1 (b : Block) : (b.zero).c1 = b.c1 := rfl
@[simp] theorem Block.zero_refT (b : Block) : (b.zero).refT = b.refT := rfl
@[simp] theorem Block.zero_startT (b : Block) : (b.zero).startT = b.startT := rfl
@[simp] theorem Block.zero_endT (b : Block) : (b.zero).endT = b.endT := rfl
@[simp] theorem Block.zero_time (b : Block) : (b.zero).time = b.time := rfl
@[simp] theorem Block.zero_dist (b : Block) : (b.zero).dist = b.dist := rfl
@[simp] theorem Block.zero_dist1 (b : Block) : (b.zero).dist1 = b.dist1 := rfl
@[simp] theorem Block.zero_site (b : Block) : (b.zero).site = b.site := rfl
@[simp] theorem Block.zero_rp (b : Block) : (b.zero).rp = b.rp := rfl
@[simp] theorem Block.zero_speed (b : Block) : (b.zero).speed = b.speed := rfl
@[simp] theorem Block.zero_res (b : Block) : (b.zero).res = b.res := rfl
@[simp] theorem Block.zero_tok (b : Block) : (b.zero).tok = b.tok := rfl
@[simp] theorem Block.zero_err (b : Block) : (b.zero).err = b.err := rfl
@[simp] theorem Block.zero_fLost (b : Block) : (b.zero).fLost = b.fLost := rfl
@[simp] theorem Block.zero_fOvfwrap (b : Block) : (b.zero).fOvfwrap = b.fOvfwrap := rfl
@[simp] theorem Block.zero_fRange (b : Block) : (b.zero).fRange = b.fRange := rfl
@[simp] theorem Block.zero_trig (b : Block) : (b.zero).trig = b.trig := rfl

/-! ### `Block.goTo` -/

@[simp] theorem Block.goTo_cnt (b : Block) (site : Site) (rp : BitVec 2) : (b.goTo site rp).cnt = b.cnt := rfl
@[simp] theorem Block.goTo_ovf (b : Block) (site : Site) (rp : BitVec 2) : (b.goTo site rp).ovf = b.ovf := rfl
@[simp] theorem Block.goTo_clkhz (b : Block) (site : Site) (rp : BitVec 2) : (b.goTo site rp).clkhz = b.clkhz := rfl
@[simp] theorem Block.goTo_ps (b : Block) (site : Site) (rp : BitVec 2) : (b.goTo site rp).ps = b.ps := rfl
@[simp] theorem Block.goTo_ovp (b : Block) (site : Site) (rp : BitVec 2) : (b.goTo site rp).ovp = b.ovp := rfl
@[simp] theorem Block.goTo_oie (b : Block) (site : Site) (rp : BitVec 2) : (b.goTo site rp).oie = b.oie := rfl
@[simp] theorem Block.goTo_cfgd (b : Block) (site : Site) (rp : BitVec 2) : (b.goTo site rp).cfgd = b.cfgd := rfl
@[simp] theorem Block.goTo_duration (b : Block) (site : Site) (rp : BitVec 2) : (b.goTo site rp).duration = b.duration := rfl
@[simp] theorem Block.goTo_timeout (b : Block) (site : Site) (rp : BitVec 2) : (b.goTo site rp).timeout = b.timeout := rfl
@[simp] theorem Block.goTo_busy (b : Block) (site : Site) (rp : BitVec 2) : (b.goTo site rp).busy = b.busy := rfl
@[simp] theorem Block.goTo_op (b : Block) (site : Site) (rp : BitVec 2) : (b.goTo site rp).op = b.op := rfl
@[simp] theorem Block.goTo_sample (b : Block) (site : Site) (rp : BitVec 2) : (b.goTo site rp).sample = b.sample := rfl
@[simp] theorem Block.goTo_o1 (b : Block) (site : Site) (rp : BitVec 2) : (b.goTo site rp).o1 = b.o1 := rfl
@[simp] theorem Block.goTo_c1 (b : Block) (site : Site) (rp : BitVec 2) : (b.goTo site rp).c1 = b.c1 := rfl
@[simp] theorem Block.goTo_refT (b : Block) (site : Site) (rp : BitVec 2) : (b.goTo site rp).refT = b.refT := rfl
@[simp] theorem Block.goTo_startT (b : Block) (site : Site) (rp : BitVec 2) : (b.goTo site rp).startT = b.startT := rfl
@[simp] theorem Block.goTo_endT (b : Block) (site : Site) (rp : BitVec 2) : (b.goTo site rp).endT = b.endT := rfl
@[simp] theorem Block.goTo_time (b : Block) (site : Site) (rp : BitVec 2) : (b.goTo site rp).time = b.time := rfl
@[simp] theorem Block.goTo_dist (b : Block) (site : Site) (rp : BitVec 2) : (b.goTo site rp).dist = b.dist := rfl
@[simp] theorem Block.goTo_dist1 (b : Block) (site : Site) (rp : BitVec 2) : (b.goTo site rp).dist1 = b.dist1 := rfl
@[simp] theorem Block.goTo_site (b : Block) (site : Site) (rp : BitVec 2) : (b.goTo site rp).site = site := rfl
@[simp] theorem Block.goTo_rp (b : Block) (site : Site) (rp : BitVec 2) : (b.goTo site rp).rp = rp := rfl
@[simp] theorem Block.goTo_speed (b : Block) (site : Site) (rp : BitVec 2) : (b.goTo site rp).speed = b.speed := rfl
@[simp] theorem Block.goTo_res (b : Block) (site : Site) (rp : BitVec 2) : (b.goTo site rp).res = b.res := rfl
@[simp] theorem Block.goTo_tok (b : Block) (site : Site) (rp : BitVec 2) : (b.goTo site rp).tok = b.tok := rfl
@[simp] theorem Block.goTo_err (b : Block) (site : Site) (rp : BitVec 2) : (b.goTo site rp).err = b.err := rfl
@[simp] theorem Block.goTo_fLost (b : Block) (site : Site) (rp : BitVec 2) : (b.goTo site rp).fLost = b.fLost := rfl
@[simp] theorem Block.goTo_fOvfwrap (b : Block) (site : Site) (rp : BitVec 2) : (b.goTo site rp).fOvfwrap = b.fOvfwrap := rfl
@[simp] theorem Block.goTo_fRange (b : Block) (site : Site) (rp : BitVec 2) : (b.goTo site rp).fRange = b.fRange := rfl
@[simp] theorem Block.goTo_trig (b : Block) (site : Site) (rp : BitVec 2) : (b.goTo site rp).trig = b.trig := rfl

/-! ### `Block.finish` -/

@[simp] theorem Block.finish_cnt (b : Block) : (b.finish).cnt = b.cnt := rfl
@[simp] theorem Block.finish_ovf (b : Block) : (b.finish).ovf = b.ovf := rfl
@[simp] theorem Block.finish_clkhz (b : Block) : (b.finish).clkhz = b.clkhz := rfl
@[simp] theorem Block.finish_ps (b : Block) : (b.finish).ps = b.ps := rfl
@[simp] theorem Block.finish_ovp (b : Block) : (b.finish).ovp = b.ovp := rfl
@[simp] theorem Block.finish_oie (b : Block) : (b.finish).oie = b.oie := rfl
@[simp] theorem Block.finish_cfgd (b : Block) : (b.finish).cfgd = b.cfgd := rfl
@[simp] theorem Block.finish_duration (b : Block) : (b.finish).duration = b.duration := rfl
@[simp] theorem Block.finish_timeout (b : Block) : (b.finish).timeout = b.timeout := rfl
@[simp] theorem Block.finish_busy (b : Block) : (b.finish).busy = false := rfl
@[simp] theorem Block.finish_op (b : Block) : (b.finish).op = b.op := rfl
@[simp] theorem Block.finish_sample (b : Block) : (b.finish).sample = b.sample := rfl
@[simp] theorem Block.finish_o1 (b : Block) : (b.finish).o1 = b.o1 := rfl
@[simp] theorem Block.finish_c1 (b : Block) : (b.finish).c1 = b.c1 := rfl
@[simp] theorem Block.finish_refT (b : Block) : (b.finish).refT = b.refT := rfl
@[simp] theorem Block.finish_startT (b : Block) : (b.finish).startT = b.startT := rfl
@[simp] theorem Block.finish_endT (b : Block) : (b.finish).endT = b.endT := rfl
@[simp] theorem Block.finish_time (b : Block) : (b.finish).time = b.time := rfl
@[simp] theorem Block.finish_dist (b : Block) : (b.finish).dist = b.dist := rfl
@[simp] theorem Block.finish_dist1 (b : Block) : (b.finish).dist1 = b.dist1 := rfl
@[simp] theorem Block.finish_site (b : Block) : (b.finish).site = .idle := rfl
@[simp] theorem Block.finish_rp (b : Block) : (b.finish).rp = 0#2 := rfl
@[simp] theorem Block.finish_speed (b : Block) : (b.finish).speed = b.speed := rfl
@[simp] theorem Block.finish_res (b : Block) : (b.finish).res = b.res := rfl
@[simp] theorem Block.finish_tok (b : Block) : (b.finish).tok = b.tok := rfl
@[simp] theorem Block.finish_err (b : Block) : (b.finish).err = b.err := rfl
@[simp] theorem Block.finish_fLost (b : Block) : (b.finish).fLost = b.fLost := rfl
@[simp] theorem Block.finish_fOvfwrap (b : Block) : (b.finish).fOvfwrap = b.fOvfwrap := rfl
@[simp] theorem Block.finish_fRange (b : Block) : (b.finish).fRange = b.fRange := rfl
@[simp] theorem Block.finish_trig (b : Block) : (b.finish).trig = b.trig := rfl

/-! ### `Block.reject` -/

@[simp] theorem Block.reject_cnt (b : Block) (e : Err) : (b.reject e).cnt = b.cnt := rfl
@[simp] theorem Block.reject_ovf (b : Block) (e : Err) : (b.reject e).ovf = b.ovf := rfl
@[simp] theorem Block.reject_clkhz (b : Block) (e : Err) : (b.reject e).clkhz = b.clkhz := rfl
@[simp] theorem Block.reject_ps (b : Block) (e : Err) : (b.reject e).ps = b.ps := rfl
@[simp] theorem Block.reject_ovp (b : Block) (e : Err) : (b.reject e).ovp = b.ovp := rfl
@[simp] theorem Block.reject_oie (b : Block) (e : Err) : (b.reject e).oie = b.oie := rfl
@[simp] theorem Block.reject_cfgd (b : Block) (e : Err) : (b.reject e).cfgd = b.cfgd := rfl
@[simp] theorem Block.reject_duration (b : Block) (e : Err) : (b.reject e).duration = b.duration := rfl
@[simp] theorem Block.reject_timeout (b : Block) (e : Err) : (b.reject e).timeout = b.timeout := rfl
@[simp] theorem Block.reject_busy (b : Block) (e : Err) : (b.reject e).busy = b.busy := rfl
@[simp] theorem Block.reject_op (b : Block) (e : Err) : (b.reject e).op = b.op := rfl
@[simp] theorem Block.reject_sample (b : Block) (e : Err) : (b.reject e).sample = b.sample := rfl
@[simp] theorem Block.reject_o1 (b : Block) (e : Err) : (b.reject e).o1 = b.o1 := rfl
@[simp] theorem Block.reject_c1 (b : Block) (e : Err) : (b.reject e).c1 = b.c1 := rfl
@[simp] theorem Block.reject_refT (b : Block) (e : Err) : (b.reject e).refT = b.refT := rfl
@[simp] theorem Block.reject_startT (b : Block) (e : Err) : (b.reject e).startT = b.startT := rfl
@[simp] theorem Block.reject_endT (b : Block) (e : Err) : (b.reject e).endT = b.endT := rfl
@[simp] theorem Block.reject_time (b : Block) (e : Err) : (b.reject e).time = b.time := rfl
@[simp] theorem Block.reject_dist (b : Block) (e : Err) : (b.reject e).dist = b.dist := rfl
@[simp] theorem Block.reject_dist1 (b : Block) (e : Err) : (b.reject e).dist1 = b.dist1 := rfl
@[simp] theorem Block.reject_site (b : Block) (e : Err) : (b.reject e).site = b.site := rfl
@[simp] theorem Block.reject_rp (b : Block) (e : Err) : (b.reject e).rp = b.rp := rfl
@[simp] theorem Block.reject_speed (b : Block) (e : Err) : (b.reject e).speed = b.speed := rfl
@[simp] theorem Block.reject_res (b : Block) (e : Err) : (b.reject e).res = b.res := rfl
@[simp] theorem Block.reject_tok (b : Block) (e : Err) : (b.reject e).tok = b.tok := rfl
@[simp] theorem Block.reject_err (b : Block) (e : Err) : (b.reject e).err = e := rfl
@[simp] theorem Block.reject_fLost (b : Block) (e : Err) : (b.reject e).fLost = b.fLost := rfl
@[simp] theorem Block.reject_fOvfwrap (b : Block) (e : Err) : (b.reject e).fOvfwrap = b.fOvfwrap := rfl
@[simp] theorem Block.reject_fRange (b : Block) (e : Err) : (b.reject e).fRange = b.fRange := rfl
@[simp] theorem Block.reject_trig (b : Block) (e : Err) : (b.reject e).trig = b.trig := rfl

/-! ### `Block.begin` -/

@[simp] theorem Block.begin_cnt (b : Block) (op : Op) (site : Site) (rp : BitVec 2) : (b.begin op site rp).cnt = b.cnt := rfl
@[simp] theorem Block.begin_ovf (b : Block) (op : Op) (site : Site) (rp : BitVec 2) : (b.begin op site rp).ovf = b.ovf := rfl
@[simp] theorem Block.begin_clkhz (b : Block) (op : Op) (site : Site) (rp : BitVec 2) : (b.begin op site rp).clkhz = b.clkhz := rfl
@[simp] theorem Block.begin_ps (b : Block) (op : Op) (site : Site) (rp : BitVec 2) : (b.begin op site rp).ps = b.ps := rfl
@[simp] theorem Block.begin_ovp (b : Block) (op : Op) (site : Site) (rp : BitVec 2) : (b.begin op site rp).ovp = b.ovp := rfl
@[simp] theorem Block.begin_oie (b : Block) (op : Op) (site : Site) (rp : BitVec 2) : (b.begin op site rp).oie = b.oie := rfl
@[simp] theorem Block.begin_cfgd (b : Block) (op : Op) (site : Site) (rp : BitVec 2) : (b.begin op site rp).cfgd = b.cfgd := rfl
@[simp] theorem Block.begin_duration (b : Block) (op : Op) (site : Site) (rp : BitVec 2) : (b.begin op site rp).duration = b.duration := rfl
@[simp] theorem Block.begin_timeout (b : Block) (op : Op) (site : Site) (rp : BitVec 2) : (b.begin op site rp).timeout = b.timeout := rfl
@[simp] theorem Block.begin_busy (b : Block) (op : Op) (site : Site) (rp : BitVec 2) : (b.begin op site rp).busy = true := rfl
@[simp] theorem Block.begin_op (b : Block) (op : Op) (site : Site) (rp : BitVec 2) : (b.begin op site rp).op = op := rfl
@[simp] theorem Block.begin_sample (b : Block) (op : Op) (site : Site) (rp : BitVec 2) : (b.begin op site rp).sample = false := rfl
@[simp] theorem Block.begin_o1 (b : Block) (op : Op) (site : Site) (rp : BitVec 2) : (b.begin op site rp).o1 = b.o1 := rfl
@[simp] theorem Block.begin_c1 (b : Block) (op : Op) (site : Site) (rp : BitVec 2) : (b.begin op site rp).c1 = b.c1 := rfl
@[simp] theorem Block.begin_refT (b : Block) (op : Op) (site : Site) (rp : BitVec 2) : (b.begin op site rp).refT = b.refT := rfl
@[simp] theorem Block.begin_startT (b : Block) (op : Op) (site : Site) (rp : BitVec 2) : (b.begin op site rp).startT = b.startT := rfl
@[simp] theorem Block.begin_endT (b : Block) (op : Op) (site : Site) (rp : BitVec 2) : (b.begin op site rp).endT = b.endT := rfl
@[simp] theorem Block.begin_time (b : Block) (op : Op) (site : Site) (rp : BitVec 2) : (b.begin op site rp).time = b.time := rfl
@[simp] theorem Block.begin_dist (b : Block) (op : Op) (site : Site) (rp : BitVec 2) : (b.begin op site rp).dist = b.dist := rfl
@[simp] theorem Block.begin_dist1 (b : Block) (op : Op) (site : Site) (rp : BitVec 2) : (b.begin op site rp).dist1 = b.dist1 := rfl
@[simp] theorem Block.begin_site (b : Block) (op : Op) (site : Site) (rp : BitVec 2) : (b.begin op site rp).site = site := rfl
@[simp] theorem Block.begin_rp (b : Block) (op : Op) (site : Site) (rp : BitVec 2) : (b.begin op site rp).rp = rp := rfl
@[simp] theorem Block.begin_speed (b : Block) (op : Op) (site : Site) (rp : BitVec 2) : (b.begin op site rp).speed = b.speed := rfl
@[simp] theorem Block.begin_res (b : Block) (op : Op) (site : Site) (rp : BitVec 2) : (b.begin op site rp).res = .none := rfl
@[simp] theorem Block.begin_tok (b : Block) (op : Op) (site : Site) (rp : BitVec 2) : (b.begin op site rp).tok = b.tok := rfl
@[simp] theorem Block.begin_err (b : Block) (op : Op) (site : Site) (rp : BitVec 2) : (b.begin op site rp).err = .none := rfl
@[simp] theorem Block.begin_fLost (b : Block) (op : Op) (site : Site) (rp : BitVec 2) : (b.begin op site rp).fLost = b.fLost := rfl
@[simp] theorem Block.begin_fOvfwrap (b : Block) (op : Op) (site : Site) (rp : BitVec 2) : (b.begin op site rp).fOvfwrap = b.fOvfwrap := rfl
@[simp] theorem Block.begin_fRange (b : Block) (op : Op) (site : Site) (rp : BitVec 2) : (b.begin op site rp).fRange = b.fRange := rfl
@[simp] theorem Block.begin_trig (b : Block) (op : Op) (site : Site) (rp : BitVec 2) : (b.begin op site rp).trig = b.trig := rfl

/-! ### `Block.applyConfig` -/

@[simp] theorem Block.applyConfig_cnt (b : Block) (p : Prescaler) : (b.applyConfig p).cnt = 0#16 := rfl
@[simp] theorem Block.applyConfig_ovf (b : Block) (p : Prescaler) : (b.applyConfig p).ovf = 0#32 := rfl
@[simp] theorem Block.applyConfig_clkhz (b : Block) (p : Prescaler) : (b.applyConfig p).clkhz = b.clkhz := rfl
@[simp] theorem Block.applyConfig_ps (b : Block) (p : Prescaler) : (b.applyConfig p).ps = p := rfl
@[simp] theorem Block.applyConfig_ovp (b : Block) (p : Prescaler) : (b.applyConfig p).ovp = false := rfl
@[simp] theorem Block.applyConfig_oie (b : Block) (p : Prescaler) : (b.applyConfig p).oie = true := rfl
@[simp] theorem Block.applyConfig_cfgd (b : Block) (p : Prescaler) : (b.applyConfig p).cfgd = true := rfl
@[simp] theorem Block.applyConfig_duration (b : Block) (p : Prescaler) : (b.applyConfig p).duration = b.duration := rfl
@[simp] theorem Block.applyConfig_timeout (b : Block) (p : Prescaler) : (b.applyConfig p).timeout = b.timeout := rfl
@[simp] theorem Block.applyConfig_busy (b : Block) (p : Prescaler) : (b.applyConfig p).busy = b.busy := rfl
@[simp] theorem Block.applyConfig_op (b : Block) (p : Prescaler) : (b.applyConfig p).op = .configure := rfl
@[simp] theorem Block.applyConfig_sample (b : Block) (p : Prescaler) : (b.applyConfig p).sample = b.sample := rfl
@[simp] theorem Block.applyConfig_o1 (b : Block) (p : Prescaler) : (b.applyConfig p).o1 = b.o1 := rfl
@[simp] theorem Block.applyConfig_c1 (b : Block) (p : Prescaler) : (b.applyConfig p).c1 = b.c1 := rfl
@[simp] theorem Block.applyConfig_refT (b : Block) (p : Prescaler) : (b.applyConfig p).refT = b.refT := rfl
@[simp] theorem Block.applyConfig_startT (b : Block) (p : Prescaler) : (b.applyConfig p).startT = b.startT := rfl
@[simp] theorem Block.applyConfig_endT (b : Block) (p : Prescaler) : (b.applyConfig p).endT = b.endT := rfl
@[simp] theorem Block.applyConfig_time (b : Block) (p : Prescaler) : (b.applyConfig p).time = b.time := rfl
@[simp] theorem Block.applyConfig_dist (b : Block) (p : Prescaler) : (b.applyConfig p).dist = b.dist := rfl
@[simp] theorem Block.applyConfig_dist1 (b : Block) (p : Prescaler) : (b.applyConfig p).dist1 = b.dist1 := rfl
@[simp] theorem Block.applyConfig_site (b : Block) (p : Prescaler) : (b.applyConfig p).site = b.site := rfl
@[simp] theorem Block.applyConfig_rp (b : Block) (p : Prescaler) : (b.applyConfig p).rp = b.rp := rfl
@[simp] theorem Block.applyConfig_speed (b : Block) (p : Prescaler) : (b.applyConfig p).speed = b.speed := rfl
@[simp] theorem Block.applyConfig_res (b : Block) (p : Prescaler) : (b.applyConfig p).res = b.res := rfl
@[simp] theorem Block.applyConfig_tok (b : Block) (p : Prescaler) : (b.applyConfig p).tok = b.tok := rfl
@[simp] theorem Block.applyConfig_err (b : Block) (p : Prescaler) : (b.applyConfig p).err = .none := rfl
@[simp] theorem Block.applyConfig_fLost (b : Block) (p : Prescaler) : (b.applyConfig p).fLost = b.fLost := rfl
@[simp] theorem Block.applyConfig_fOvfwrap (b : Block) (p : Prescaler) : (b.applyConfig p).fOvfwrap = b.fOvfwrap := rfl
@[simp] theorem Block.applyConfig_fRange (b : Block) (p : Prescaler) : (b.applyConfig p).fRange = b.fRange := rfl
@[simp] theorem Block.applyConfig_trig (b : Block) (p : Prescaler) : (b.applyConfig p).trig = b.trig := rfl

/-! ### `State.withBlk`: only the block -/

@[simp] theorem State.withBlk_blk (s : State) (b : Block) : (s.withBlk b).blk = b := rfl
@[simp] theorem State.withBlk_params (s : State) (b : Block) : (s.withBlk b).params = s.params := rfl
@[simp] theorem State.withBlk_events (s : State) (b : Block) : (s.withBlk b).events = s.events := rfl
@[simp] theorem State.withBlk_drawn (s : State) (b : Block) : (s.withBlk b).drawn = s.drawn := rfl
@[simp] theorem State.withBlk_rdata (s : State) (b : Block) : (s.withBlk b).rdata = s.rdata := rfl
@[simp] theorem State.withBlk_self (s : State) : s.withBlk s.blk = s := rfl

end Sys2Proof.Machine
end

