-- ==== Sys2Proof/Laws/Ops.lean ====
section
/-!
SUPPORT. What each shared operation of the machine can do, said once: provers cite these instead of unfolding it.
-/
namespace Sys2Proof.Machine

/-! ### Arithmetic -/

/-- R10: `floor(a / b)` for `b > 0` is the largest q with `q * b ≤ a`. -/
theorem floorDiv_bounds {a b : Int} (hb : 0 < b) : floorDiv a b * b ≤ a ∧ a < (floorDiv a b + 1) * b := by
  have h1 := Int.emod_nonneg a (Int.ne_of_gt hb)
  have h2 := Int.emod_lt_of_pos a hb
  have h3 := Int.mul_ediv_add_emod a b
  have h4 : (a / b + 1) * b = b * (a / b) + b := by rw [Int.add_mul, Int.one_mul, Int.mul_comm]
  have h5 : a / b * b = b * (a / b) := Int.mul_comm _ _
  simp only [floorDiv]
  omega

/-- The integer floor division is the floor of the exact quotient (R10). -/
theorem floorDiv_eq_floor {a b : Int} (hb : 0 < b) : floorDiv a b = ((a : Rat) / (b : Rat)).floor := by
  have hb' : (0 : Rat) < b := by exact_mod_cast hb
  obtain ⟨h1, h2⟩ := floorDiv_bounds (a := a) hb
  apply Int.le_antisymm
  · rw [Rat.le_floor_iff, le_div_iff₀ hb']
    exact_mod_cast h1
  · rw [← Int.lt_add_one_iff, Rat.floor_lt_iff, div_lt_iff₀ hb']
    exact_mod_cast h2

/-- The exact time of a tick count, cleared of its divisor (R12). -/
theorem timeSec_mul_clk {div clk : Nat} (t : Int) (hclk : 0 < clk) :
    timeSec div clk t * (clk : Rat) = (t : Rat) * (div : Rat) := by
  have : (clk : Rat) ≠ 0 := by exact_mod_cast Nat.ne_of_gt hclk
  rw [timeSec, div_mul_cancel₀ _ this]
  push_cast
  rfl

theorem wrapPeriod_w8 : wrapPeriod .w8 = 256 := rfl
theorem wrapPeriod_w16 : wrapPeriod .w16 = 65536 := rfl

/-- The wrap period is positive and a counter of 16 bits holds every count below it. -/
theorem wrapPeriod_bounds (w : CounterWidth) : 256 ≤ wrapPeriod w ∧ wrapPeriod w ≤ 65536 := by
  cases w <;> decide

/-- The largest count and the wrap period (R5). -/
theorem maxCount_succ (w : CounterWidth) : maxCount w + 1 = wrapPeriod w := by
  cases w <;> decide

/-- A tick count of the paired read fits the 48 bits of `REF`, `START` and `END`, so storing it never truncates
(92_eei_decisions.md D28). -/
theorem ticks_lt (w : CounterWidth) (o : Word) (c : BitVec 16) : ticks w o c < 281474976710656 := by
  have ho := o.isLt
  have hc := c.isLt
  cases w <;> simp only [ticks, wrapPeriod_w8, wrapPeriod_w16] <;> omega

/-- A stored tick count reads back as it was (R35: "so that `travelTime` is exact"). -/
theorem ticks_stored (w : CounterWidth) (o : Word) (c : BitVec 16) :
    (BitVec.ofNat 48 (ticks w o c)).toNat = ticks w o c := by
  rw [BitVec.toNat_ofNat]
  exact Nat.mod_eq_of_lt (ticks_lt w o c)

/-- With `CNT` in range a tick count is below `2^32` wrap periods (R115). -/
theorem ticks_lt_capacity (w : CounterWidth) (o : Word) (c : BitVec 16) (hc : c.toNat < wrapPeriod w) :
    ticks w o c < 4294967296 * wrapPeriod w := by
  have ho := o.isLt
  cases w <;> simp only [ticks, wrapPeriod_w8, wrapPeriod_w16] at * <;> omega

/-- The divisor is one of the source's set (R85). -/
theorem divisor_cases {p : Prescaler} {d : Nat} (h : divisor p = some d) :
    d = 1 ∨ d = 8 ∨ d = 64 ∨ d = 256 ∨ d = 1024 := by
  cases p <;> simp [divisor] at h <;> omega

/-- A running counter clock has a divisor (R85). -/
theorem divisor_of_running {p : Prescaler} (h : p ≠ .stopped) : ∃ d, divisor p = some d := by
  cases p <;> simp [divisor] at *

/-- A select field that names a prescaler names a running one, and the prescaler's code is the field (R85). -/
theorem prescalerOf_some {ps : BitVec 3} {p : Prescaler} (h : prescalerOf ps = some p) :
    p ≠ .stopped ∧ prescalerCode p = ps := by
  revert h
  unfold prescalerOf
  split
  · rintro ⟨⟩; subst_vars; simp [prescalerCode]
  split
  · rintro ⟨⟩; subst_vars; simp [prescalerCode]
  split
  · rintro ⟨⟩; subst_vars; simp [prescalerCode]
  split
  · rintro ⟨⟩; subst_vars; simp [prescalerCode]
  split
  · rintro ⟨⟩; subst_vars; simp [prescalerCode]
  · rintro ⟨⟩

/-- A select field that names no prescaler is 0, 6 or 7 (R85). -/
theorem prescalerOf_none {ps : BitVec 3} (h : prescalerOf ps = none) : ps = 0#3 ∨ ps = 6#3 ∨ ps = 7#3 := by
  revert ps
  decide

/-! ### Commands -/

/-- A `CMD` write while `BUSY = 1` changes nothing (R63). -/
theorem State.command_busy {s : State} (f : Block → Block) (h : s.blk.busy = true) : s.command f = s := by
  simp [State.command, h]

/-- A `CMD` write while `BUSY = 0` does its work on the block and on nothing else (R63). -/
theorem State.command_idle {s : State} (f : Block → Block) (h : s.blk.busy = false) :
    s.command f = s.withBlk (f s.blk) := by
  simp [State.command, h]

/-- What `Start` can do (R121). -/
theorem Block.startCommand_cases (b : Block) (op : Op) (site : Site) (rp : BitVec 2) :
    (b.cfgd = false ∧ b.startCommand op site rp = b.reject .notConfigured) ∨
      (b.cfgd = true ∧ b.startCommand op site rp = b.begin op site rp) := by
  cases h : b.cfgd <;> simp [Block.startCommand, h]

/-- What `Configure` can do (R120): a rejection with a named code, or the success with a running prescaler. -/
theorem Block.configure_cases (b : Block) (ps : BitVec 3) :
    (∃ e, b.configure ps = b.reject e) ∨
      ∃ p, prescalerOf ps = some p ∧ b.cfgd = false ∧ b.clkhz ≠ 0#32 ∧ b.configure ps = b.applyConfig p := by
  cases hc : b.cfgd with
  | true => exact .inl ⟨.cfgAgain, by simp [Block.configure, hc]⟩
  | false =>
    cases hp : prescalerOf ps with
    | none => exact .inl ⟨.cfgPrescaler, by simp [Block.configure, hc, hp]⟩
    | some p =>
      by_cases hz : b.clkhz = 0#32
      · exact .inl ⟨.cfgClock, by simp [Block.configure, hc, hp, hz]⟩
      · exact .inr ⟨p, rfl, rfl, hz, by simp [Block.configure, hc, hp, hz]⟩

/-- The four timing commands and what each starts with: opcode, first site, first read step (R81). -/
def timingStarts : List (Instr × Op × Site × BitVec 2) :=
  [(.rdtime, .rdtime, .ct, 1#2), (.delay, .delay, .dlRst, 0#2), (.measure, .measure, .trigOn, 0#2),
    (.mspeed, .mspeed, .trigOn, 0#2)]

/-- Every command is performed or rejected inside the host's write, and the write never stops the machine: `exec` answers a
next state that differs from the old one in the block alone (R81). -/
theorem exec_cases (i : Instr) (s : State) :
    (s.blk.busy = true ∧ exec i s = .next s) ∨
      (s.blk.busy = false ∧
        ((∃ e, exec i s = .next (s.withBlk (s.blk.reject e))) ∨
          (∃ ps p, i = .configure ps ∧ prescalerOf ps = some p ∧ s.blk.cfgd = false ∧ s.blk.clkhz ≠ 0#32 ∧
            exec i s = .next (s.withBlk (s.blk.applyConfig p))) ∨
          (s.blk.cfgd = true ∧ ∃ op site rp,
            (i, op, site, rp) ∈ timingStarts ∧ exec i s = .next (s.withBlk (s.blk.begin op site rp))))) := by
  cases hb : s.blk.busy with
  | true =>
    left
    cases i <;> simp [exec, execConfigure, execRdtime, execDelay, execMeasure, execMspeed, State.command_busy _ hb]
  | false =>
    right
    refine ⟨rfl, ?_⟩
    have timing : ∀ op site rp, (i, op, site, rp) ∈ timingStarts →
        exec i s = .next (s.command (·.startCommand op site rp)) →
        (∃ e, exec i s = .next (s.withBlk (s.blk.reject e))) ∨ (s.blk.cfgd = true ∧ ∃ op site rp,
          (i, op, site, rp) ∈ timingStarts ∧ exec i s = .next (s.withBlk (s.blk.begin op site rp))) := by
      intro op site rp hmem he
      rw [State.command_idle _ hb] at he
      rcases s.blk.startCommand_cases op site rp with ⟨_, hs⟩ | ⟨hc, hs⟩ <;> simp only [hs] at he
      · exact Or.inl ⟨_, he⟩
      · exact Or.inr ⟨hc, op, site, rp, hmem, he⟩
    cases i with
    | configure ps =>
      rcases s.blk.configure_cases ps with ⟨e, he⟩ | ⟨p, hp, hc, hz, he⟩
      · exact .inl ⟨e, by simp [exec, execConfigure, State.command_idle _ hb, he]⟩
      · exact .inr (.inl ⟨ps, p, rfl, hp, hc, hz, by simp [exec, execConfigure, State.command_idle _ hb, he]⟩)
    | rdtime => exact (timing .rdtime .ct 1#2 (by decide) rfl).imp_right .inr
    | delay => exact (timing .delay .dlRst 0#2 (by decide) rfl).imp_right .inr
    | measure => exact (timing .measure .trigOn 0#2 (by decide) rfl).imp_right .inr
    | mspeed => exact (timing .mspeed .trigOn 0#2 (by decide) rfl).imp_right .inr

/-! ### The counter and its interrupt -/

/-- What a tick can do (R100, R101). -/
theorem Block.tick_cases (w : CounterWidth) (b : Block) :
    (b.cnt.toNat = maxCount w ∧
        b.tick w = { b with cnt := 0#16, fLost := b.fLost || b.ovp, ovp := true }) ∨
      (b.cnt.toNat ≠ maxCount w ∧ b.tick w = { b with cnt := b.cnt + 1#16 }) := by
  by_cases h : b.cnt.toNat = maxCount w
  · exact .inl ⟨h, by simp [Block.tick, h]⟩
  · exact .inr ⟨h, by simp [Block.tick, h]⟩

/-- What the overflow handler can do (R102). -/
theorem Block.takeOverflow_cases (b : Block) :
    (b.ovf = 4294967295#32 ∧ b.takeOverflow = { b with ovf := 0#32, fOvfwrap := true, ovp := false }) ∨
      (b.ovf ≠ 4294967295#32 ∧ b.takeOverflow = { b with ovf := b.ovf + 1#32, ovp := false }) := by
  by_cases h : b.ovf = 4294967295#32
  · exact .inl ⟨h, by simp [Block.takeOverflow, h]⟩
  · exact .inr ⟨h, by simp [Block.takeOverflow, h]⟩

/-! ### The sequencer -/

/-- If a step that needs `DIV` answers, the counter clock selects one (R85). -/
theorem withDivisor_ok {b b' : Block} {k : Nat → Except Refusal Block} (h : withDivisor b k = .ok b') :
    ∃ d, divisor b.ps = some d ∧ k d = .ok b' := by
  unfold withDivisor at h
  split at h
  · cases h
  · exact ⟨_, ‹_›, h⟩

/-- While the counter clock runs a step that needs `DIV` has it (R85). -/
theorem withDivisor_eq {b : Block} {d : Nat} (k : Nat → Except Refusal Block) (h : divisor b.ps = some d) :
    withDivisor b k = k d := by
  simp [withDivisor, h]

/-- If a conversion answers, there are a `DIV` and a nonzero `CLKHZ` (R113 d). -/
theorem withClock_ok {b b' : Block} {k : Nat → Nat → Except Refusal Block} (h : withClock b k = .ok b') :
    ∃ d, divisor b.ps = some d ∧ b.clkhz ≠ 0#32 ∧ k d b.clkhz.toNat = .ok b' := by
  obtain ⟨d, hd, hk⟩ := withDivisor_ok h
  split at hk
  · cases hk
  · exact ⟨d, hd, ‹_›, hk⟩

/-- While the counter clock runs and `CLKHZ` is known a conversion has both (R113 d). -/
theorem withClock_eq {b : Block} {d : Nat} (k : Nat → Nat → Except Refusal Block) (h : divisor b.ps = some d)
    (hz : b.clkhz ≠ 0#32) : withClock b k = k d b.clkhz.toNat := by
  simp [withClock, withDivisor, h, hz]

/-- What the paired read can do (R107). -/
theorem readPair_cases {w : CounterWidth} {b b' : Block} {exit : Nat → Except Refusal Block}
    (h : readPair w b exit = .ok b') :
    (b.rp = 1#2 ∧ b' = { b with o1 := b.ovf, rp := 2#2 }) ∨ (b.rp = 2#2 ∧ b' = { b with c1 := b.cnt, rp := 3#2 }) ∨
      (b.rp = 3#2 ∧ b.ovf ≠ b.o1 ∧ b' = { b with rp := 1#2 }) ∨
        (b.rp = 3#2 ∧ b.ovf = b.o1 ∧ exit (ticks w b.o1 b.c1) = .ok b') := by
  unfold readPair at h
  split at h
  · exact .inl ⟨‹_›, by cases h; rfl⟩
  split at h
  · exact .inr (.inl ⟨‹_›, by cases h; rfl⟩)
  split at h
  · split at h
    · exact .inr (.inr (.inl ⟨‹_›, ‹_›, by cases h; rfl⟩))
    · exact .inr (.inr (.inr ⟨‹_›, by simp_all, h⟩))
  · cases h

/-- What the bound check of a wait can do (R149, R152). -/
theorem boundWait_cases {b b' : Block} {t : Nat} {since : TickReg} {tok : Bool} {pin : Site}
    (h : boundWait b t since tok pin = .ok b') :
    ∃ d, divisor b.ps = some d ∧
      ((exceeded d b.clkhz.toNat ((t : Int) - since.toNat) b.timeout.toNat = true ∧
          b' = { b.goTo .timedOut 0#2 with tok := tok }) ∨
        (exceeded d b.clkhz.toNat ((t : Int) - since.toNat) b.timeout.toNat = false ∧ b' = b.goTo pin 0#2)) := by
  obtain ⟨d, hd, hk⟩ := withDivisor_ok h
  refine ⟨d, hd, ?_⟩
  split at hk
  · exact .inl ⟨‹_›, by cases hk; rfl⟩
  · exact .inr ⟨by simp_all, by cases hk; rfl⟩

/-- The three ways a measurement delivers its value (R153, R154). -/
theorem deliver_cases (b : Block) (d : Long) (res : Res) :
    (b.op = .measure ∧ deliver b d res = { b.finish with dist := d, res := res }) ∨
      (b.op ≠ .measure ∧ b.sample = true ∧ deliver b d res = { b.goTo .speed 0#2 with dist := d }) ∨
        (b.op ≠ .measure ∧ b.sample = false ∧ deliver b d res = { b.goTo .gapRst 0#2 with dist1 := d }) := by
  by_cases h : b.op = .measure
  · exact .inl ⟨h, by simp [deliver, h]⟩
  · cases hs : b.sample
    · exact .inr (.inr ⟨h, rfl, by simp [deliver, h, hs]⟩)
    · exact .inr (.inl ⟨h, rfl, by simp [deliver, h, hs]⟩)

/-! ### Packed views and the host port -/

/-- A field of a packed view fills its own bits and no other (R86). -/
theorem fieldAt_getLsbD {w : Nat} (lo : Nat) (x : BitVec w) (i : Nat) :
    (fieldAt lo x).getLsbD i = (decide (i < 32 ∧ lo ≤ i ∧ i - lo < w) && x.getLsbD (i - lo)) := by
  unfold fieldAt
  rw [BitVec.getLsbD_shiftLeft, BitVec.getLsbD_setWidth]
  by_cases h1 : i < 32 <;> by_cases h2 : lo ≤ i
  · have h4 : ¬ i < lo := by omega
    have h5 : i - lo < 32 := by omega
    by_cases h3 : i - lo < w
    · simp [h1, h2, h3, h4, h5]
    · have h6 : x.getLsbD (i - lo) = false := BitVec.getLsbD_of_ge _ _ (by omega)
      simp [h3, h6]
  · have h4 : i < lo := by omega
    simp [h2, h4]
  · simp [h1]
  · simp [h1]

/-- A one-bit field fills its bit and no other (R86). -/
theorem flagAt_getLsbD (lo : Nat) (b : Bool) (i : Nat) :
    (flagAt lo b).getLsbD i = (decide (i < 32 ∧ i = lo) && b) := by
  unfold flagAt
  rw [fieldAt_getLsbD]
  by_cases h : i = lo
  · subst h; simp
  · have : ¬(lo ≤ i ∧ i - lo < 1) := by omega
    simp only [h, this, and_false, decide_false, Bool.false_and]

/-- What a host write can do (R63): nothing, store an operand, run a command, or record an illegal one. -/
theorem hostWrite_cases (off : Offset) (v : Word) (s : State) :
    ((s.blk.busy = true ∨ misaligned off = true) ∧ hostWrite off v s = .next s) ∨
      (s.blk.busy = false ∧ off ≠ 0x00#7 ∧ hostWrite off v s = .next (s.withBlk (s.blk.writeOperand off v))) ∨
      (s.blk.busy = false ∧ off = 0x00#7 ∧ ∃ i, decode (commandByte v) = .command i ∧ hostWrite off v s = exec i s) ∨
      (s.blk.busy = false ∧ off = 0x00#7 ∧ (∃ r, decode (commandByte v) = .illegal r) ∧
        hostWrite off v s = .next (s.withBlk (s.blk.reject .illegalCmd))) := by
  unfold hostWrite
  split
  · exact .inl ⟨.inl ‹_›, rfl⟩
  have hb : s.blk.busy = false := by simp_all
  split
  · exact .inl ⟨.inr ‹_›, rfl⟩
  split
  · unfold commandWrite
    split
    · exact .inr (.inr (.inl ⟨hb, ‹_›, _, ‹_›, rfl⟩))
    · exact .inr (.inr (.inr ⟨hb, ‹_›, ⟨_, ‹_›⟩, by simp [State.command_idle _ hb]⟩))
  · exact .inr (.inl ⟨hb, ‹_›, rfl⟩)

/-- What an operand write can do to the block (R63): store one of three registers, or nothing. -/
theorem Block.writeOperand_cases (b : Block) (off : Offset) (v : Word) :
    b.writeOperand off v = b ∨ (b.cfgd = false ∧ b.writeOperand off v = { b with clkhz := v }) ∨
      b.writeOperand off v = { b with duration := v } ∨ b.writeOperand off v = { b with timeout := v } := by
  unfold Block.writeOperand
  split
  · cases h : b.cfgd <;> simp
  split
  · exact .inr (.inr (.inl rfl))
  split
  · exact .inr (.inr (.inr rfl))
  · exact .inl rfl

/-! ### Widths, alignment, an accepted pair -/

/-- `MAXC` by number (R5). -/
theorem maxCount_ite (w : CounterWidth) : maxCount w = if w = .w8 then 255 else 65535 := by cases w <;> rfl

/-- `2^N` by number (R5). -/
theorem wrapPeriod_ite (w : CounterWidth) : wrapPeriod w = if w = .w8 then 256 else 65536 := by cases w <;> rfl

/-- Misaligned, said of the offset as a number (R65). -/
theorem misaligned_iff (off : Offset) : misaligned off = true ↔ off.toNat % 4 ≠ 0 := by
  revert off
  decide +kernel

/-- Step 3 of a paired read whose two reads of `OVF` agree runs the site's exit (R107). -/
theorem readPair_accepted {w : CounterWidth} {b : Block} (exit : Nat → Except Refusal Block) (hr : b.rp = 3#2)
    (ho : b.ovf = b.o1) : readPair w b exit = exit (ticks w b.o1 b.c1) := by
  simp [readPair, hr, ho]

/-- A command's write changes nothing while a command runs (R63). -/
theorem exec_busy (i : Instr) {s : State} (hb : s.blk.busy = true) : exec i s = .next s := by
  rcases exec_cases i s with ⟨_, h⟩ | ⟨h, _⟩
  · exact h
  · rw [hb] at h; cases h

end Sys2Proof.Machine
end

