-- ==== Sys2Proof/Laws/PerInstr.lean ====
section
/-!
SUPPORT. The family `CommandByte`: what holds of the byte of every command (spec/30_encoding.md R80, R81), one lemma per
constructor of Instr.
-/
namespace Sys2Proof.Laws.CommandByte

/-- The command is well formed, its byte has `b[7] = 0` and is legal, and its own row of R80 selects the byte while no other
row of the table does. -/
def Statement (i : Instr) : Prop :=
  i.wellFormed = true ∧ topBit (encode i) = false ∧ legalByte (encode i) = true ∧
    ∀ r ∈ commandTable, r.selects (encode i) = true ↔ r = i.row

theorem configure (ps : BitVec 3) : Statement (.configure ps) := by
  unfold Statement
  revert ps
  decide
theorem rdtime : Statement .rdtime := by unfold Statement; decide
theorem delay : Statement .delay := by unfold Statement; decide
theorem measure : Statement .measure := by unfold Statement; decide
theorem mspeed : Statement .mspeed := by unfold Statement; decide

end Sys2Proof.Laws.CommandByte
end

