-- ==== Sys2Proof/Laws/Step.lean ====
section
/-!
SUPPORT. Everything a step can do, said once: `SeqMove` for the sequencer's own steps and `BlockStep` for a step of any
agent, with the inversion lemmas `seqStep_move` and `step_block`. Invariants are proved by cases on these.
-/
namespace Sys2Proof.Machine

/-! ### Inputs -/

@[simp] theorem State.advance_blk (s : State) : s.advance.blk = s.blk := by unfold State.advance; split <;> rfl
@[simp] theorem State.advance_params (s : State) : s.advance.params = s.params := by unfold State.advance; split <;> rfl
@[simp] theorem State.advance_rdata (s : State) : s.advance.rdata = s.rdata := by unfold State.advance; split <;> rfl

@[simp] theorem State.advance_withBlk_self (s : State) : s.advance.withBlk s.blk = s.advance := by
  rw [← s.advance_blk, State.withBlk_self]

/-- With inputs placed the oldest one is next. -/
theorem State.nextEvent_cons {s : State} {e : Event} {es : List Event} (h : s.events = e :: es) : s.nextEvent = e := by
  simp [State.nextEvent, h]

/-- With inputs placed consuming one takes the head. -/
theorem State.advance_cons {s : State} {e : Event} {es : List Event} (h : s.events = e :: es) :
    s.advance = { s with events := es } := by
  simp [State.advance, h]

/-- With no input placed the next one is free. -/
theorem State.nextEvent_nil {s : State} (h : s.events = []) : s.nextEvent = Config.freeEvent s.drawn := by
  simp [State.nextEvent, h]

/-- With no input placed consuming one counts it. -/
theorem State.advance_nil {s : State} (h : s.events = []) : s.advance = { s with drawn := s.drawn + 1 } := by
  simp [State.advance, h]

/-! ### Steps by agent -/

theorem step_tick {s : State} (h : s.nextEvent = .tick) : step s = tickStep s.advance := by simp [step, h, runEvent]
theorem step_ovh {s : State} (h : s.nextEvent = .ovh) : step s = ovhStep s.advance := by simp [step, h, runEvent]
theorem step_seq {s : State} {echo : Bool} (h : s.nextEvent = .seq echo) : step s = sequencerStep echo s.advance := by
  simp [step, h, runEvent]
theorem step_read {s : State} {off : Offset} (h : s.nextEvent = .host (.read off)) : step s = hostRead off s.advance := by
  simp [step, h, runEvent, hostStep]
theorem step_write {s : State} {off : Offset} {v : Word} (h : s.nextEvent = .host (.write off v)) :
    step s = hostWrite off v s.advance := by
  simp [step, h, runEvent, hostStep]
theorem step_reset {s : State} (h : s.nextEvent = .reset) : step s = resetStep s.advance := by simp [step, h, runEvent]

/-- A sequencer turn with the sequencer enabled is `seqStep` on the block. -/
theorem step_seq_enabled {s : State} {echo : Bool} (h : s.nextEvent = .seq echo) (he : s.blk.seqEnabled = true) :
    step s = match seqStep s.params echo s.blk with
      | .ok b => .next (s.advance.withBlk b)
      | .error r => .refused r := by
  cases hx : seqStep s.params echo s.blk <;> simp [step_seq h, sequencerStep, he, hx]

/-! ### The sequencer's moves -/

/-- The third step of a paired read, `OVF` being as at the first (R107). -/
abbrev Block.pairRead (b : Block) : Prop := b.rp = 3#2 ∧ b.ovf = b.o1

/-- Every step the sequencer can take, by the rule that gives it. `T` of a paired read is `ticks p.width b.o1 b.c1`. -/
inductive SeqMove (p : Params) (echo : Bool) (b : Block) : Block → Prop where
  /-- R107, step 1. -/
  | readFirst (hs : isReading b.site = true) (hr : b.rp = 1#2) : SeqMove p echo b { b with o1 := b.ovf, rp := 2#2 }
  /-- R107, step 2. -/
  | readSecond (hs : isReading b.site = true) (hr : b.rp = 2#2) : SeqMove p echo b { b with c1 := b.cnt, rp := 3#2 }
  /-- R107, step 3, retry. -/
  | readRetry (hs : isReading b.site = true) (hr : b.rp = 3#2) (ho : b.ovf ≠ b.o1) : SeqMove p echo b { b with rp := 1#2 }
  /-- R123. -/
  | time {d : Nat} (hs : b.site = .ct) (hr : b.pairRead) (hd : divisor b.ps = some d) (hz : b.clkhz ≠ 0#32) :
      SeqMove p echo b { b.finish with
        time := store64 (timeUs d b.clkhz.toNat (ticks p.width b.o1 b.c1)),
        fRange := b.fRange || !fitsU64 (timeUs d b.clkhz.toNat (ticks p.width b.o1 b.c1)), res := .valid }
  /-- R124. -/
  | delayZero (hs : b.site = .dlRst) : SeqMove p echo b (b.zero.goTo .dl 1#2)
  /-- R125, reached. -/
  | delayEnd {d : Nat} (hs : b.site = .dl) (hr : b.pairRead) (hd : divisor b.ps = some d)
      (ht : reached d b.clkhz.toNat (ticks p.width b.o1 b.c1) b.duration.toNat = true) :
      SeqMove p echo b { b.finish with res := .valid }
  /-- R125, R144, R156: the bound of a delay is not reached, read again. -/
  | delayAgain (hs : b.site = .dl ∨ b.site = .tp ∨ b.site = .gap) (hr : b.pairRead) :
      SeqMove p echo b (b.goTo b.site 1#2)
  /-- R143. -/
  | trigOn (hs : b.site = .trigOn) : SeqMove p echo b { b.goTo .tpRst 0#2 with trig := true }
  /-- R144. -/
  | pulseZero (hs : b.site = .tpRst) : SeqMove p echo b (b.zero.goTo .tp 1#2)
  /-- R144, reached. -/
  | pulseEnd {d : Nat} (hs : b.site = .tp) (hr : b.pairRead) (hd : divisor b.ps = some d)
      (ht : reached d b.clkhz.toNat (ticks p.width b.o1 b.c1) p.trigUs = true) : SeqMove p echo b (b.goTo .trigOff 0#2)
  /-- R145. -/
  | trigOff (hs : b.site = .trigOff) : SeqMove p echo b { b.goTo .ref 1#2 with trig := false }
  /-- R146. -/
  | ref (hs : b.site = .ref) (hr : b.pairRead) :
      SeqMove p echo b { b.goTo .rPin 0#2 with refT := BitVec.ofNat 48 (ticks p.width b.o1 b.c1) }
  /-- R148, rise observed. -/
  | rise (hs : b.site = .rPin) (he : echo = true) : SeqMove p echo b (b.goTo .start 1#2)
  /-- R148, not yet. -/
  | noRise (hs : b.site = .rPin) (he : echo = false) : SeqMove p echo b (b.goTo .r 1#2)
  /-- R149, exceeded. -/
  | riseTimeout {d : Nat} (hs : b.site = .r) (hr : b.pairRead) (hd : divisor b.ps = some d)
      (ht : exceeded d b.clkhz.toNat ((ticks p.width b.o1 b.c1 : Int) - b.refT.toNat) b.timeout.toNat = true) :
      SeqMove p echo b { b.goTo .timedOut 0#2 with tok := false }
  /-- R149, otherwise. -/
  | riseAgain {d : Nat} (hs : b.site = .r) (hr : b.pairRead) (hd : divisor b.ps = some d)
      (ht : exceeded d b.clkhz.toNat ((ticks p.width b.o1 b.c1 : Int) - b.refT.toNat) b.timeout.toNat = false) :
      SeqMove p echo b (b.goTo .rPin 0#2)
  /-- R150. -/
  | start (hs : b.site = .start) (hr : b.pairRead) :
      SeqMove p echo b { b.goTo .fPin 0#2 with startT := BitVec.ofNat 48 (ticks p.width b.o1 b.c1) }
  /-- R151, fall observed. -/
  | fall (hs : b.site = .fPin) (he : echo = false) : SeqMove p echo b (b.goTo .endRead 1#2)
  /-- R151, still active. -/
  | noFall (hs : b.site = .fPin) (he : echo = true) : SeqMove p echo b (b.goTo .f 1#2)
  /-- R152, exceeded. -/
  | fallTimeout {d : Nat} (hs : b.site = .f) (hr : b.pairRead) (hd : divisor b.ps = some d)
      (ht : exceeded d b.clkhz.toNat ((ticks p.width b.o1 b.c1 : Int) - b.startT.toNat) b.timeout.toNat = true) :
      SeqMove p echo b { b.goTo .timedOut 0#2 with tok := true }
  /-- R152, otherwise. -/
  | fallAgain {d : Nat} (hs : b.site = .f) (hr : b.pairRead) (hd : divisor b.ps = some d)
      (ht : exceeded d b.clkhz.toNat ((ticks p.width b.o1 b.c1 : Int) - b.startT.toNat) b.timeout.toNat = false) :
      SeqMove p echo b (b.goTo .fPin 0#2)
  /-- R158. -/
  | endRead (hs : b.site = .endRead) (hr : b.pairRead) :
      SeqMove p echo b { b.goTo .done 0#2 with endT := BitVec.ofNat 48 (ticks p.width b.o1 b.c1) }
  /-- R153, MEASURE. -/
  | done {d : Nat} (hs : b.site = .done) (hd : divisor b.ps = some d) (hz : b.clkhz ≠ 0#32) (ho : b.op = .measure) :
      SeqMove p echo b { b.finish with
        dist := store64 (distUm d b.clkhz.toNat p.sos.toNat b.startT.toNat b.endT.toNat), res := .valid,
        fRange := b.fRange || !fitsS64 (distUm d b.clkhz.toNat p.sos.toNat b.startT.toNat b.endT.toNat) }
  /-- R153, the first sample of MSPEED. -/
  | doneFirst {d : Nat} (hs : b.site = .done) (hd : divisor b.ps = some d) (hz : b.clkhz ≠ 0#32) (ho : b.op ≠ .measure)
      (hf : b.sample = false) :
      SeqMove p echo b { b.goTo .gapRst 0#2 with
        dist1 := store64 (distUm d b.clkhz.toNat p.sos.toNat b.startT.toNat b.endT.toNat),
        fRange := b.fRange || !fitsS64 (distUm d b.clkhz.toNat p.sos.toNat b.startT.toNat b.endT.toNat) }
  /-- R153, the second sample of MSPEED. -/
  | doneSecond {d : Nat} (hs : b.site = .done) (hd : divisor b.ps = some d) (hz : b.clkhz ≠ 0#32) (ho : b.op ≠ .measure)
      (hf : b.sample = true) :
      SeqMove p echo b { b.goTo .speed 0#2 with
        dist := store64 (distUm d b.clkhz.toNat p.sos.toNat b.startT.toNat b.endT.toNat),
        fRange := b.fRange || !fitsS64 (distUm d b.clkhz.toNat p.sos.toNat b.startT.toNat b.endT.toNat) }
  /-- R154, MEASURE. -/
  | timeout (hs : b.site = .timedOut) (ho : b.op = .measure) :
      SeqMove p echo b { b.finish with dist := sentinel, res := .timeout }
  /-- R154, the first sample of MSPEED. -/
  | timeoutFirst (hs : b.site = .timedOut) (ho : b.op ≠ .measure) (hf : b.sample = false) :
      SeqMove p echo b { b.goTo .gapRst 0#2 with dist1 := sentinel }
  /-- R154, the second sample of MSPEED. -/
  | timeoutSecond (hs : b.site = .timedOut) (ho : b.op ≠ .measure) (hf : b.sample = true) :
      SeqMove p echo b { b.goTo .speed 0#2 with dist := sentinel }
  /-- R156. -/
  | gapZero (hs : b.site = .gapRst) : SeqMove p echo b (b.zero.goTo .gap 1#2)
  /-- R156, reached. -/
  | gapEnd {d : Nat} (hs : b.site = .gap) (hr : b.pairRead) (hd : divisor b.ps = some d)
      (ht : reached d b.clkhz.toNat (ticks p.width b.o1 b.c1) p.dtUs.toNat = true) :
      SeqMove p echo b { b.goTo .trigOn 0#2 with sample := true }
  /-- R157, a sample timed out. -/
  | noSpeed (hs : b.site = .speed) (hm : b.dist1 = sentinel ∨ b.dist = sentinel) :
      SeqMove p echo b { b.finish with speed := speedMarker, res := .indet }
  /-- R157, both samples valid. -/
  | speed (hs : b.site = .speed) (hm : ¬(b.dist1 = sentinel ∨ b.dist = sentinel)) (hg : p.dtUs ≠ 0#32) :
      SeqMove p echo b { b.finish with
        speed := store64 (speedUmPerS p.dtUs.toNat b.dist1.toInt b.dist.toInt), res := .valid,
        fRange := b.fRange || !fitsS64 (speedUmPerS p.dtUs.toNat b.dist1.toInt b.dist.toInt) }

/-- A paired read's answer is one of its three unfinished steps or the site's exit. -/
theorem SeqMove.of_readPair {p : Params} {echo : Bool} {b b' : Block} {exit : Nat → Except Refusal Block}
    (hs : isReading b.site = true) (h : readPair p.width b exit = .ok b')
    (hx : b.pairRead → exit (ticks p.width b.o1 b.c1) = .ok b' → SeqMove p echo b b') : SeqMove p echo b b' := by
  rcases readPair_cases h with ⟨hr, rfl⟩ | ⟨hr, rfl⟩ | ⟨hr, ho, rfl⟩ | ⟨hr, ho, he⟩
  · exact .readFirst hs hr
  · exact .readSecond hs hr
  · exact .readRetry hs hr ho
  · exact hx ⟨hr, ho⟩ he

/-- Everything a `SEQ` step can do. -/
theorem seqStep_move {p : Params} {echo : Bool} {b b' : Block} (h : seqStep p echo b = .ok b') : SeqMove p echo b b' := by
  have reading (exit : Nat → Except Refusal Block) (hs : isReading b.site = true)
      (h : readPair p.width b exit = .ok b')
      (hx : b.pairRead → exit (ticks p.width b.o1 b.c1) = .ok b' → SeqMove p echo b b') : SeqMove p echo b b' :=
    .of_readPair hs h hx
  unfold seqStep at h
  split at h <;> rename_i hs
  · cases h
  · refine reading _ (by simp [hs, isReading]) h fun hr hx => ?_
    obtain ⟨d, hd, hz, hk⟩ := withClock_ok hx
    cases hk
    exact .time hs hr hd hz
  · cases h; exact .delayZero hs
  · refine reading _ (by simp [hs, isReading]) h fun hr hx => ?_
    obtain ⟨d, hd, hk⟩ := withDivisor_ok hx
    split at hk <;> cases hk
    · exact .delayEnd hs hr hd ‹_›
    · simpa [hs] using SeqMove.delayAgain (p := p) (echo := echo) (.inl hs) hr
  · cases h; exact .trigOn hs
  · cases h; exact .pulseZero hs
  · refine reading _ (by simp [hs, isReading]) h fun hr hx => ?_
    obtain ⟨d, hd, hk⟩ := withDivisor_ok hx
    split at hk <;> cases hk
    · exact .pulseEnd hs hr hd ‹_›
    · simpa [hs] using SeqMove.delayAgain (p := p) (echo := echo) (.inr (.inl hs)) hr
  · cases h; exact .trigOff hs
  · refine reading _ (by simp [hs, isReading]) h fun hr hx => ?_
    cases hx
    exact .ref hs hr
  · cases h
    cases echo
    · exact .noRise hs rfl
    · exact .rise hs rfl
  · refine reading _ (by simp [hs, isReading]) h fun hr hx => ?_
    obtain ⟨d, hd, ⟨ht, rfl⟩ | ⟨ht, rfl⟩⟩ := boundWait_cases hx
    · exact .riseTimeout hs hr hd ht
    · exact .riseAgain hs hr hd ht
  · refine reading _ (by simp [hs, isReading]) h fun hr hx => ?_
    cases hx
    exact .start hs hr
  · cases h
    cases echo
    · exact .fall hs rfl
    · exact .noFall hs rfl
  · refine reading _ (by simp [hs, isReading]) h fun hr hx => ?_
    obtain ⟨d, hd, ⟨ht, rfl⟩ | ⟨ht, rfl⟩⟩ := boundWait_cases hx
    · exact .fallTimeout hs hr hd ht
    · exact .fallAgain hs hr hd ht
  · refine reading _ (by simp [hs, isReading]) h fun hr hx => ?_
    cases hx
    exact .endRead hs hr
  · obtain ⟨d, hd, hz, hk⟩ := withClock_ok h
    cases hk
    rcases deliver_cases b (store64 (distUm d b.clkhz.toNat p.sos.toNat b.startT.toNat b.endT.toNat)) .valid with
      ⟨ho, hx⟩ | ⟨ho, hf, hx⟩ | ⟨ho, hf, hx⟩ <;> rw [hx]
    · exact .done hs hd hz ho
    · exact .doneSecond hs hd hz ho hf
    · exact .doneFirst hs hd hz ho hf
  · cases h
    rcases deliver_cases b sentinel .timeout with ⟨ho, hx⟩ | ⟨ho, hf, hx⟩ | ⟨ho, hf, hx⟩ <;> rw [hx]
    · exact .timeout hs ho
    · exact .timeoutSecond hs ho hf
    · exact .timeoutFirst hs ho hf
  · cases h; exact .gapZero hs
  · refine reading _ (by simp [hs, isReading]) h fun hr hx => ?_
    obtain ⟨d, hd, hk⟩ := withDivisor_ok hx
    split at hk <;> cases hk
    · exact .gapEnd hs hr hd ‹_›
    · simpa [hs] using SeqMove.delayAgain (p := p) (echo := echo) (.inr (.inr hs)) hr
  · unfold siteSpeed at h
    split at h
    · cases h; exact .noSpeed hs ‹_›
    split at h <;> cases h
    exact .speed hs ‹_› ‹_›

/-- What no `SEQ` step writes: the Timer's configuration, the operands, `OP`, `ERR` and the two count faults (R46, R190). -/
theorem SeqMove.keeps {p : Params} {echo : Bool} {b b' : Block} (h : SeqMove p echo b b') :
    b'.clkhz = b.clkhz ∧ b'.ps = b.ps ∧ b'.oie = b.oie ∧ b'.cfgd = b.cfgd ∧ b'.duration = b.duration ∧
      b'.timeout = b.timeout ∧ b'.op = b.op ∧ b'.err = b.err ∧ b'.fLost = b.fLost ∧ b'.fOvfwrap = b.fOvfwrap := by
  cases h <;> simp

/-- A `SEQ` step leaves the counters alone or is one of the three zeroing sites' (R105). -/
theorem SeqMove.counters {p : Params} {echo : Bool} {b b' : Block} (h : SeqMove p echo b b') :
    (b'.cnt = b.cnt ∧ b'.ovf = b.ovf ∧ b'.ovp = b.ovp) ∨
      ((b.site = .dlRst ∨ b.site = .tpRst ∨ b.site = .gapRst) ∧ b'.cnt = 0#16 ∧ b'.ovf = 0#32 ∧ b'.ovp = false ∧
        b'.rp = 1#2) := by
  cases h <;> simp [*]

/-- The step of an enabled sequencer at a known site. -/
theorem State.SeqAt.step_eq {s : State} {site : Site} {echo : Bool} (h : s.SeqAt site echo) :
    step s = match seqStep s.params echo s.blk with
      | .ok b => .next (s.advance.withBlk b)
      | .error r => .refused r :=
  step_seq_enabled h.1 h.2.1

/-- The tick count of an accepted pair (R12). -/
theorem State.ReadsAt.ticks_eq {s : State} {site : Site} {t : Nat} (h : s.ReadsAt site t) :
    t = ticks s.params.width s.blk.o1 s.blk.c1 := by
  obtain ⟨-, -, -, ht⟩ := h
  rw [ht, ticks, wrapPeriod_ite]

/-! ### Steps of any agent -/

/-- A command the block rejects is no CONFIGURE that would succeed (R120). -/
theorem configureSucceeds_of_reject {s : State} {v : Word} {i : Instr} {e : Err}
    (hb : s.blk.busy = false) (hd : decode (commandByte v) = .command i)
    (hx : exec i s = .next (s.withBlk (s.blk.reject e))) : configureSucceeds s.blk (commandByte v) = false := by
  cases i with
  | configure ps =>
    cases hc : s.blk.cfgd <;> cases hp : prescalerOf ps <;> by_cases hz : s.blk.clkhz = 0#32 <;>
      simp [configureSucceeds, hd, hc, hp, hz]
    have hcf := congrArg (fun o => match o with | .next t => t.blk.cfgd | _ => false) hx
    simp [exec, execConfigure, State.command_idle _ hb, Block.configure, hc, hp, hz] at hcf
  | rdtime | delay | measure | mspeed => simp [configureSucceeds, hd]

/-- Everything a step can do to the block, by the agent that takes it. -/
inductive BlockStep (s : State) : Block → Prop where
  /-- R100, not enabled (log 4). -/
  | tickOff (he : s.nextEvent = .tick) (hen : s.blk.tickEnabled = false) : BlockStep s s.blk
  /-- R100. -/
  | tick (he : s.nextEvent = .tick) (hen : s.blk.tickEnabled = true) : BlockStep s (s.blk.tick s.params.width)
  /-- R102, not enabled (log 4). -/
  | ovhOff (he : s.nextEvent = .ovh) (hen : s.blk.ovhEnabled = false) : BlockStep s s.blk
  /-- R102. -/
  | ovh (he : s.nextEvent = .ovh) (hen : s.blk.ovhEnabled = true) : BlockStep s s.blk.takeOverflow
  /-- R104, not enabled (log 4). -/
  | seqOff {echo : Bool} (he : s.nextEvent = .seq echo) (hen : s.blk.seqEnabled = false) : BlockStep s s.blk
  /-- R104. -/
  | seq {echo : Bool} {b : Block} (he : s.nextEvent = .seq echo) (hen : s.blk.seqEnabled = true)
      (hm : SeqMove s.params echo s.blk b) : BlockStep s b
  /-- R62. -/
  | read {off : Offset} (he : s.nextEvent = .host (.read off)) : BlockStep s s.blk
  /-- R63, an ignored write. -/
  | ignored {off : Offset} {v : Word} (he : s.nextEvent = .host (.write off v))
      (hi : s.blk.busy = true ∨ misaligned off = true) : BlockStep s s.blk
  /-- R63, an operand register, or an offset that stores nothing. -/
  | operand {off : Offset} {v : Word} (he : s.nextEvent = .host (.write off v)) (hb : s.blk.busy = false)
      (ho : off ≠ 0x00#7) : BlockStep s (s.blk.writeOperand off v)
  /-- R180, a rejected command byte. -/
  | reject {v : Word} (e : Err) (he : s.nextEvent = .host (.write 0x00#7 v)) (hb : s.blk.busy = false)
      (hn : configureSucceeds s.blk (commandByte v) = false) : BlockStep s (s.blk.reject e)
  /-- R120, success. -/
  | config {v : Word} {ps : BitVec 3} {p : Prescaler} (he : s.nextEvent = .host (.write 0x00#7 v))
      (hb : s.blk.busy = false) (hd : decode (commandByte v) = .command (.configure ps)) (hp : prescalerOf ps = some p)
      (hc : s.blk.cfgd = false) (hz : s.blk.clkhz ≠ 0#32) : BlockStep s (s.blk.applyConfig p)
  /-- R121, accepted. -/
  | begin {v : Word} {i : Instr} {op : Op} {site : Site} {rp : BitVec 2} (he : s.nextEvent = .host (.write 0x00#7 v))
      (hb : s.blk.busy = false) (hd : decode (commandByte v) = .command i) (hc : s.blk.cfgd = true)
      (hi : (i, op, site, rp) ∈ timingStarts) : BlockStep s (s.blk.begin op site rp)
  /-- R200. -/
  | reset (he : s.nextEvent = .reset) : BlockStep s Block.reset

/-- Everything a step can do: the parameters stay, and the block changes as `BlockStep` says. -/
theorem step_block {s t : State} (h : step s = .next t) : t.params = s.params ∧ BlockStep s t.blk := by
  cases he : s.nextEvent with
  | tick =>
    rw [step_tick he] at h
    unfold tickStep at h
    split at h <;> cases h <;> simp_all
    · exact .tick he ‹_›
    · exact .tickOff he ‹_›
  | ovh =>
    rw [step_ovh he] at h
    unfold ovhStep at h
    split at h <;> cases h <;> simp_all
    · exact .ovh he ‹_›
    · exact .ovhOff he ‹_›
  | seq echo =>
    rw [step_seq he] at h
    unfold sequencerStep at h
    split at h
    · split at h <;> cases h
      rename_i hen _ b hb
      simp only [State.advance_blk, State.advance_params] at hb hen
      exact ⟨by simp, .seq he hen (seqStep_move hb)⟩
    · cases h
      rename_i hen
      exact ⟨by simp, by simpa using BlockStep.seqOff he (by simpa using hen)⟩
  | host a =>
    cases a with
    | read off =>
      rw [step_read he] at h
      cases h
      simpa using BlockStep.read he
    | write off v =>
      rw [step_write he] at h
      rcases hostWrite_cases off v s.advance with
        ⟨hi, hw⟩ | ⟨hb, ho, hw⟩ | ⟨hb, ho, i, hd, hw⟩ | ⟨hb, ho, ⟨r, hd⟩, hw⟩ <;> rw [hw] at h
      · cases h
        simpa using BlockStep.ignored he (by simpa using hi)
      · cases h
        simpa using BlockStep.operand he (by simpa using hb) ho
      · subst ho
        rcases exec_cases i s.advance with
          ⟨hb', _⟩ | ⟨_, ⟨e, hx⟩ | ⟨ps, p, rfl, hp, hc, hz, hx⟩ | ⟨hc, op, site, rp, hi, hx⟩⟩
        · rw [hb] at hb'; cases hb'
        · have hn := configureSucceeds_of_reject hb hd hx
          rw [hx] at h
          cases h
          simpa using BlockStep.reject e he (by simpa using hb) (by simpa using hn)
        · rw [hx] at h
          cases h
          simpa using BlockStep.config he (by simpa using hb) hd hp (by simpa using hc) (by simpa using hz)
        · rw [hx] at h
          cases h
          simpa using BlockStep.begin he (by simpa using hb) hd (by simpa using hc) hi
      · subst ho
        cases h
        simpa using BlockStep.reject .illegalCmd he (by simpa using hb) (by simp [configureSucceeds, hd])
  | reset =>
    rw [step_reset he] at h
    cases h
    simpa using BlockStep.reset he

end Sys2Proof.Machine
end

