-- ==== Sys2Proof/Tests/Slice0.lean ====
section
/-!
SUPPORT. Tests against values the spec prints (spec/95_test_vectors.md, cited beside each), the smoke tests of the legality
checks, and for every obligation with hypotheses a witness: a concrete state and operands that meet all of them together,
one for each clause, at the boundary values of its range.
-/
namespace Sys2Proof.Tests
open Sys2Proof Sys2Proof.Machine

/-! ### Helper states -/

/-- Configured at /8 from 16 MHz and idle (95 section 2.1, second row). -/
def idle : Block :=
  { Block.reset with clkhz := 16000000#32, ps := .div8, oie := true, cfgd := true, op := .configure }

/-- A command running at a site. -/
def at' (op : Op) (site : Site) (rp : BitVec 2) : Block := { idle with busy := true, op := op, site := site, rp := rp }

/-- A command at the third step of a paired read that read `(o, c)`. -/
def reads (op : Op) (site : Site) (o : Word) (c : BitVec 16) : Block :=
  { at' op site 3#2 with ovf := o, cnt := c, o1 := o, c1 := c }

/-- A block with the default parameters and inputs placed. -/
def given (b : Block) (es : List Event) : State := { State.reset with blk := b, events := es }

/-- The host's write as the next input. -/
def writing (b : Block) (off : Offset) (v : Word) : State := given b [.host (.write off v)]

/-- The state after a step. -/
def after (s : State) : State :=
  match step s with
  | .next t => t
  | .fault _ => s
  | .refused _ => s

/-- The block with an 8-bit counter. -/
def narrow (s : State) : State := { s with params := { s.params with width := .w8 } }

/-! ### Legality and encoding -/

theorem test_ill_formed_bytes : ([0x00#8, 0x06#8, 0x0F#8, 0x12#8, 0x24#8, 0x70#8, 0x81#8, 0xA1#8, 0xFF#8].any legalByte) = false := by
  decide
theorem test_ill_formed_gap : ({ defaultParams with dtUs := 0#32 } : Params).wellFormed = false := by decide
theorem test_ill_formed_pulse : ({ defaultParams with trigUs := 0 } : Params).wellFormed = false := by decide
theorem test_well_formed : defaultParams.wellFormed = true ∧ (Instr.configure 7#3).wellFormed = true := by decide

/-- R80: CONFIGURE is `0ppp0001`, here with ppp = 101. -/
theorem test_decode_configure : decode 0b01010001#8 = .command (.configure 5#3) := by decide
/-- R80: RDTIME is `00000010`. -/
theorem test_decode_rdtime : decode 0b00000010#8 = .command .rdtime := by decide
/-- R80: DELAY is `00000011`. -/
theorem test_decode_delay : decode 0b00000011#8 = .command .delay := by decide
/-- R80: MEASURE is `00000100`. -/
theorem test_decode_measure : decode 0b00000100#8 = .command .measure := by decide
/-- R80: MSPEED is `00000101`. -/
theorem test_decode_mspeed : decode 0b00000101#8 = .command .mspeed := by decide
theorem test_decode_table_word : decodeTableWord 8 0x61 = some (.configure 6#3) ∧ decodeTableWord 8 0x24 = none := by decide

/-! ### Vectors of the spec, one step each -/

/-- 95 section 2.1: 0x21 with `CLKHZ = 16000000` gives `STATUS = 0x01000106`. -/
theorem test_configure :
    status (after (writing { Block.reset with clkhz := 16000000#32 } 0x00#7 0x21#32)).blk = 0x01000106#32 := by decide
/-- 95 section 2.1: 0x61 with `CFGD = 1` gives `ERR = 3`, not 1. -/
theorem test_configure_again : (after (writing idle 0x00#7 0x61#32)).blk.err = .cfgAgain := by decide
/-- 95 section 4, P5 line 1: RDTIME from reset gives `ERR = 4`; run as the first instruction after reset. -/
theorem test_rdtime_unconfigured : status (after (State.reset.withFetchWord 8 0x02)).blk = 0x00040000#32 := by decide
/-- 95 section 3.1, last row: the time that does not fit. -/
theorem test_rdtime_range :
    (after (given { reads .rdtime .ct 4294967295#32 65535#16 with ps := .div1024, clkhz := 1#32 } [.seq false])).blk.time =
      0xFFFFFFFFC2F70000#64 := by decide
/-- 95 section 2.1: DELAY accepted, `SEQST = 0x02`. -/
theorem test_delay : seqst (after (writing idle 0x00#7 0x03#32)).blk = 0x02#32 := by decide
/-- 95 section 3.4, first row: a reading of 255 does not end a delay of 256 ticks; `SEQST = 0x23`. -/
theorem test_delay_not_reached :
    seqst (after (narrow (given { reads .delay .dl 0#32 255#16 with ps := .div1, clkhz := 1000000#32, duration := 256#32 }
      [.seq false]))).blk = 0x23#32 := by decide
/-- 95 section 2.1: `wdata[31:8]` is ignored, 0x104 is MEASURE. -/
theorem test_measure : seqst (after (writing idle 0x00#7 0x104#32)).blk = 0x04#32 := by decide
/-- 95 section 4, P2 step 37: the distance 1989400. -/
theorem test_measure_done :
    (after (given { at' .measure .done 0#2 with startT := 501#48, endT := 23701#48 } [.seq false])).blk.dist = 1989400#64 := by
  decide
/-- 95 section 2.2: MSPEED accepted, and its end without a result of a sample (P4 part B). -/
theorem test_mspeed_marker :
    status (after (given { at' .mspeed .speed 0#2 with sample := true, dist1 := sentinel, dist := 8575#64 } [.seq false])).blk =
      0x01003D06#32 := by decide
/-- 95 section 1.5: `DIST1 = 2000000`, `DIST = 1800000` give `SPEED_LO = 0xFFFCF2C0`. -/
theorem test_mspeed_speed :
    regRead defaultParams (after (given { at' .mspeed .speed 0#2 with sample := true, dist1 := 2000000#64, dist := 1800000#64 }
      [.seq false])).blk 0x28#7 = 0xFFFCF2C0#32 := by decide
/-- 95 section 3.8: the second wrap while `OVP = 1` gives `STATUS = 0x0090010E`. -/
theorem test_tick_lost :
    status (after (narrow (given { idle with ps := .div1, cnt := 255#16, ovp := true } [.tick]))).blk = 0x0090010E#32 := by decide
/-- 95 section 3.8: the handler at `OVF = 2^32 - 1` gives `STATUS = 0x01200106`. -/
theorem test_ovh_wrap :
    status (after (given { idle with ovf := 4294967295#32, ovp := true } [.ovh])).blk = 0x01200106#32 := by decide
/-- 95 section 3.3, case c: the pair (3, 0) is rejected while `OVF = 4`. -/
theorem test_paired_read_retry :
    seqst (after (given { reads .rdtime .ct 3#32 0#16 with ovf := 4#32 } [.seq false])).blk = 0x21#32 := by decide
/-- 95 section 3.5: 60021 - 20 exceeds 60000 ticks, `SEQST = 0x10`. -/
theorem test_rise_timeout :
    seqst (after (given { reads .measure .r 0#32 60021#16 with refT := 20#48 } [.seq false])).blk = 0x10#32 := by decide
/-- 95 section 2.4: `RD TIMEOUT` is 30000, and a read of 0x12 is 0. -/
theorem test_read :
    (after (given Block.reset [.host (.read 0x10#7)])).rdata = 0x00007530#32 ∧
      (after (given Block.reset [.host (.read 0x12#7)])).rdata = 0#32 := by decide

/-! ### Witnesses: reset, encoding, step -/

theorem witness_ResetRestoresResetStateAndOnlyResetClears :
    (given idle [.reset]).nextEvent = .reset ∧
    ∃ s t : State, s.nextEvent ≠ .reset ∧ step s = .next t ∧ s.blk.cfgd = true ∧ s.blk.oie = true ∧ s.blk.ps ≠ .stopped ∧
      s.blk.fLost = true ∧ s.blk.fOvfwrap = true ∧ s.blk.fRange = true :=
  ⟨rfl, given { idle with fLost := true, fOvfwrap := true, fRange := true } [.tick], _, by decide, rfl, rfl, rfl, by decide,
    rfl, rfl, rfl⟩
theorem witness_NothingRunsAfterResetUntilHostWrites :
    ∃ s : State, s.blk = State.reset.blk ∧ ∀ off v, s.nextEvent ≠ .host (.write off v) :=
  ⟨given Block.reset [.tick], rfl, fun _ _ h => nomatch (show Event.tick = _ from h)⟩
theorem witness_ParametersNeverChange : step (given idle [.reset]) = .next (after (given idle [.reset])) := rfl
/-- Boundary bytes: `opc` 0 with a select and with ignored upper bits, `opc` 6, and `b[7] = 1`. -/
theorem witness_IllegalCommandWritesErrOnly :
    ∀ v ∈ [0xFFFFFF70#32, 0x06#32, 0x12#32, 0x81#32],
      (writing idle 0x00#7 v).nextEvent = .host (.write 0x00#7 v) ∧ (writing idle 0x00#7 v).blk.busy = false ∧
        legalByte (commandByte v) = false := by
  intro v hv
  simp only [List.mem_cons, List.not_mem_nil, or_false] at hv
  refine ⟨rfl, rfl, ?_⟩
  rcases hv with rfl | rfl | rfl | rfl <;> decide
theorem witness_SelectCodesNameTheDivisors : prescalerOf 1#3 = some .div1 ∧ prescalerOf 5#3 = some .div1024 := by decide
theorem witness_StepConsumesOldestInputOrFreeOne :
    (given idle [.tick, .ovh]).events = .tick :: [.ovh] ∧ State.reset.events = [] := by decide
theorem witness_StepRunsTheDecodedCommand :
    (writing idle 0x00#7 0x104#32).nextEvent = .host (.write 0x00#7 0x104#32) ∧
      decode (BitVec.ofNat 8 ((0x104#32).toNat % 256)) = .command .measure ∧ (at' .delay .dl 1#2).busy = true := by decide
theorem witness_RegisterMapContents :
    ∀ off ∈ [0x01#7, 0x14#7, 0x5C#7, 0x7F#7], off ∉ [0x00#7, 0x04#7, 0x08#7, 0x0C#7, 0x10#7, 0x18#7, 0x1C#7, 0x20#7, 0x24#7,
      0x28#7, 0x2C#7, 0x30#7, 0x34#7, 0x38#7, 0x3C#7, 0x40#7, 0x44#7, 0x48#7, 0x4C#7, 0x50#7, 0x54#7, 0x58#7] := by decide
theorem witness_ReadReturnsTheWordAndChangesNoState :
    (given idle [.host (.read 0x7F#7)]).nextEvent = .host (.read 0x7F#7) ∧ (0x7F#7).toNat % 4 ≠ 0 ∧ (0x01#7).toNat % 4 ≠ 0 := by
  decide
/-- Every arm: `BUSY = 1`; misaligned; the command; `CLKHZ` before and after CONFIGURE; the two operands; no register. -/
theorem witness_WriteStoresOperandRunsCommandOrNothing :
    (∀ off ∈ [0x00#7, 0x01#7, 0x0C#7, 0x7F#7], (writing (at' .delay .dl 1#2) off 77#32).nextEvent = .host (.write off 77#32)) ∧
    (at' .delay .dl 1#2).busy = true ∧ idle.busy = false ∧ Block.reset.busy = false ∧
    (0x01#7).toNat % 4 ≠ 0 ∧ (0x7F#7).toNat % 4 ≠ 0 ∧ idle.cfgd = true ∧ Block.reset.cfgd = false ∧
    (∀ off ∈ [0x04#7, 0x14#7, 0x7C#7], off ∉ [0x00#7, 0x08#7, 0x0C#7, 0x10#7]) := by decide
theorem witness_WritesWhileBusyVanish :
    (writing (at' .delay .dl 1#2) 0x00#7 0x04#32).nextEvent = .host (.write 0x00#7 0x04#32) ∧
      (writing (at' .delay .dl 1#2) 0x00#7 0x04#32).blk.busy = true := by decide
theorem witness_OperandsCannotChangeWhileACommandRuns :
    ∃ s t : State, s.nextEvent ≠ .reset ∧ step s = .next t ∧ s.blk.busy = true ∧ s.blk.cfgd = true :=
  ⟨writing (at' .delay .dl 1#2) 0x0C#7 77#32, _, by decide, rfl, rfl, rfl⟩

/-! ### Witnesses: acceptance -/

/-- The four clauses, each at the ends of its selects. -/
theorem witness_ConfigureRejectsInOrderOrConfigures :
    idle.busy = false ∧ idle.cfgd = true ∧ Block.reset.busy = false ∧ Block.reset.cfgd = false ∧
    (∀ ps ∈ [0#3, 6#3, 7#3], ps ∉ [1#3, 2#3, 3#3, 4#3, 5#3]) ∧ (∀ ps ∈ [1#3, 5#3], ps ∈ [1#3, 2#3, 3#3, 4#3, 5#3]) ∧
    Block.reset.clkhz = 0#32 ∧ ({ Block.reset with clkhz := 1#32 } : Block).clkhz ≠ 0#32 := by decide
theorem witness_TimingCommandsStartOrAreRefused :
    (given Block.reset []).blk.busy = false ∧ (given Block.reset []).blk.cfgd = false ∧ (given idle []).blk.busy = false ∧
    (given idle []).blk.cfgd = true ∧
    (Instr.mspeed, Op.mspeed, Site.trigOn, 0#2) ∈ [(Instr.rdtime, Op.rdtime, Site.ct, 1#2), (.delay, .delay, .dlRst, 0#2),
      (.measure, .measure, .trigOn, 0#2), (.mspeed, .mspeed, .trigOn, 0#2)] := by decide
theorem witness_ConfigureFrame :
    (∃ t, exec (.configure 2#3) (given { Block.reset with clkhz := 1#32, cnt := 5#16 } []) = .next t) ∧
      0x08#7 ∉ [0x04#7, 0x48#7, 0x4C#7] := ⟨⟨_, rfl⟩, by decide⟩
theorem witness_TimingCommandFrame :
    (∀ i ∈ [Instr.rdtime, .delay, .measure, .mspeed], ∃ t, exec i (given idle []) = .next t) ∧ 0x20#7 ∉ [0x04#7, 0x58#7] :=
  ⟨fun i _ => by cases i <;> exact ⟨_, rfl⟩, by decide⟩
theorem witness_OnlyCommandWritesChangeErr :
    ∃ s t : State, step s = .next t ∧ t.blk.err ≠ s.blk.err := ⟨writing idle 0x00#7 0xFF#32, _, rfl, by decide⟩

/-! ### Witnesses: the counter and its interrupt -/

/-- At `MAXC` with and without a request, for both widths; one below `MAXC`; the first and the last prescaler. -/
theorem witness_TickCountsWrapsAndRaisesTheRequest :
    (given idle [.tick]).nextEvent = .tick ∧ prescalerCode .div1 ∈ [1#3, 2#3, 3#3, 4#3, 5#3] ∧
    prescalerCode .div1024 ∈ [1#3, 2#3, 3#3, 4#3, 5#3] ∧
    (∀ ovp ∈ [true, false], ∀ w ∈ [CounterWidth.w8, .w16], ∃ b : Block, b.ovp = ovp ∧
      b.cnt.toNat = (if w = .w8 then 255 else 65535)) ∧
    ∀ w ∈ [CounterWidth.w8, .w16], ∃ b : Block, b.cnt.toNat = (if w = .w8 then 255 else 65535) - 1 ∧
      b.cnt.toNat ≠ (if w = .w8 then 255 else 65535) :=
  ⟨rfl, by decide, by decide,
   fun ovp _ w _ => by cases w; exact ⟨{ idle with ovp := ovp, cnt := 255#16 }, rfl, rfl⟩
                       exact ⟨{ idle with ovp := ovp, cnt := 65535#16 }, rfl, rfl⟩,
   fun w _ => by cases w; exact ⟨{ idle with cnt := 254#16 }, by decide, by decide⟩
                 exact ⟨{ idle with cnt := 65534#16 }, by decide, by decide⟩⟩
theorem witness_OverflowHandlerIncrementsOnce :
    (∀ o ∈ [4294967295#32, 4294967294#32], (given { idle with ovp := true, ovf := o } [.ovh]).nextEvent = .ovh ∧
      ({ idle with ovp := true, ovf := o } : Block).ovp = true ∧ ({ idle with ovp := true, ovf := o } : Block).oie = true) ∧
    (4294967295#32).toNat = 4294967295 ∧ (4294967294#32).toNat ≠ 4294967295 :=
  ⟨fun _ _ => ⟨rfl, rfl, rfl⟩, by decide, by decide⟩
theorem witness_DisabledAgentsChangeNothing :
    (given idle [.seq true]).nextEvent = .seq true ∧ idle.busy = false ∧
    ({ at' .measure .rPin 0#2 with ovp := true } : Block).ovp = true ∧ (at' .measure .rPin 0#2).oie = true ∧
    (given idle [.ovh]).nextEvent = .ovh ∧ idle.ovp = false ∧ ({ Block.reset with ovp := true } : Block).oie = false ∧
    (given Block.reset [.tick]).nextEvent = .tick ∧ prescalerCode Block.reset.ps = 0#3 := by decide
theorem witness_OnlyHandlerAndZeroModifyOvf :
    (∃ s t : State, step s = .next t ∧ t.blk.ovf ≠ s.blk.ovf ∧ s.nextEvent = .ovh) ∧
      ∃ s t : State, step s = .next t ∧ t.blk.ovf ≠ s.blk.ovf ∧ s.zeroes = true :=
  ⟨⟨given { idle with ovp := true } [.ovh], _, rfl, by decide, rfl⟩,
   ⟨given { at' .delay .dlRst 0#2 with ovf := 9#32 } [.seq false], _, rfl, by decide, by decide⟩⟩
theorem witness_FaultBitsAreSetOnlyByTheirSteps :
    (∃ s t : State, step s = .next t ∧ s.blk.fLost = false ∧ t.blk.fLost = true) ∧
    (∃ s t : State, step s = .next t ∧ s.blk.fOvfwrap = false ∧ t.blk.fOvfwrap = true) ∧
    ∃ s t : State, step s = .next t ∧ s.blk.fRange = false ∧ t.blk.fRange = true :=
  ⟨⟨given { idle with cnt := 65535#16, ovp := true } [.tick], _, rfl, rfl, by decide⟩,
   ⟨given { idle with ovf := 4294967295#32, ovp := true } [.ovh], _, rfl, rfl, by decide⟩,
   ⟨given { at' .mspeed .speed 0#2 with sample := true, dist := 0x8000000000000001#64, dist1 := 0x7FFFFFFFFFFFFFFF#64 }
      [.seq false], _, rfl, rfl, by decide⟩⟩

/-! ### Witnesses: conversions -/

theorem witness_TimeFitsForClockFrom16384 : divisor .div1024 = some 1024 ∧ 16384 ≤ (16384#32).toNat := by decide
theorem witness_TimeUsIsTheFloorOfTheExactTime : 0 < 1 := by decide
/-- 95 section 3.1, sixth and seventh rows (around a wrap), and the negative time of two ticks. -/
theorem test_timeSec :
    timeSec 8 16000000 65536 = 512 / 15625 ∧ timeSec 8 16000000 65537 = 65537 / 2000000 ∧
      timeSec 8 16000000 (-2) = -1 / 1000000 := by
  norm_num [timeSec]

/-! ### Witnesses: the paired read, RDTIME, DELAY -/

theorem witness_PairedReadReadsTwiceAndRetries :
    (∀ rp ∈ [1#2, 2#2, 3#2], (given { at' .rdtime .ct rp with ovf := 4#32, o1 := 3#32 } [.seq true]).SeqAt .ct true ∧
      (at' .rdtime .ct rp).rp = rp) ∧
    ({ at' .rdtime .ct 3#2 with ovf := 4#32, o1 := 3#32 } : Block).ovf ≠
      ({ at' .rdtime .ct 3#2 with ovf := 4#32, o1 := 3#32 } : Block).o1 :=
  ⟨fun _ _ => ⟨⟨rfl, rfl, rfl⟩, rfl⟩, by decide⟩
/-- At the top of the counters, where the time does not fit, and at their bottom. -/
theorem witness_RdtimeStoresTheTimeAndFinishes :
    (given idle []).blk.busy = false ∧ (given idle []).blk.cfgd = true ∧
    (given (reads .rdtime .ct 4294967295#32 65535#16) [.seq true]).ReadsAt .ct 281474976710655 ∧
    (given (reads .rdtime .ct 0#32 0#16) [.seq false]).ReadsAt .ct 0 ∧
    divisor (reads .rdtime .ct 0#32 0#16).ps = some 8 ∧ (reads .rdtime .ct 0#32 0#16).clkhz ≠ 0#32 :=
  ⟨rfl, rfl, ⟨⟨true, rfl, rfl, rfl⟩, rfl, rfl, by decide⟩, ⟨⟨false, rfl, rfl, rfl⟩, rfl, rfl, by decide⟩, by decide, by decide⟩
theorem witness_DelayStartsByZeroingTheCounters :
    (given idle []).blk.busy = false ∧ (given idle []).blk.cfgd = true ∧
      (given (at' .delay .dlRst 0#2) [.seq true]).SeqAt .dlRst true := ⟨rfl, rfl, rfl, rfl, rfl⟩
/-- 10 microseconds at 16 MHz /8 are 20 ticks: reached at 20, not at 19 (95 section 3.2). -/
theorem witness_DelayEndsExactlyWhenReached :
    (∀ c ∈ [20#16, 19#16], (given { reads .delay .dl 0#32 c with duration := 10#32 } [.seq true]).ReadsAt .dl c.toNat) ∧
    divisor (reads .delay .dl 0#32 20#16).ps = some 8 ∧ 10 * 16000000 ≤ 20 * 8 * 1000000 ∧ 19 * 8 * 1000000 < 10 * 16000000 :=
  ⟨fun _ _ => ⟨⟨true, rfl, rfl, rfl⟩, rfl, rfl, by simp [given, reads, at', idle]⟩, by decide, by decide, by decide⟩

/-! ### Witnesses: the sites of a measurement -/

theorem witness_TriggerPulseLastsTheDelay :
    (given (at' .measure .trigOn 0#2) [.seq true]).SeqAt .trigOn true ∧
    (given (at' .measure .tpRst 0#2) [.seq true]).SeqAt .tpRst true ∧
    (given (reads .measure .tp 0#32 20#16) [.seq true]).ReadsAt .tp 20 ∧
    (given (reads .measure .tp 0#32 19#16) [.seq true]).ReadsAt .tp 19 ∧ divisor (reads .measure .tp 0#32 20#16).ps = some 8 ∧
    State.reset.params.trigUs * 16000000 ≤ 20 * 8 * 1000000 ∧ 19 * 8 * 1000000 < State.reset.params.trigUs * 16000000 ∧
    (given (at' .measure .trigOff 0#2) [.seq true]).SeqAt .trigOff true :=
  ⟨⟨rfl, rfl, rfl⟩, ⟨rfl, rfl, rfl⟩, ⟨⟨true, rfl, rfl, rfl⟩, rfl, rfl, by decide⟩,
   ⟨⟨true, rfl, rfl, rfl⟩, rfl, rfl, by decide⟩, by decide, by decide, by decide, ⟨rfl, rfl, rfl⟩⟩
/-- At the largest reading the registers must hold. -/
theorem witness_RecordedReadingsAreExact :
    ∀ site ∈ [Site.ref, .start, .endRead],
      (given (reads .measure site 4294967295#32 65535#16) [.seq true]).ReadsAt site 281474976710655 :=
  fun _ _ => ⟨⟨true, rfl, rfl, rfl⟩, rfl, rfl, by simp [given, reads, at', idle, State.reset, defaultParams]⟩
theorem witness_PinSamplesDecideTheWaits :
    ∀ site ∈ [Site.rPin, .fPin], ∀ echo, (given (at' .measure site 0#2) [.seq echo]).SeqAt site echo :=
  fun _ _ _ => ⟨rfl, rfl, rfl⟩
/-- The bound of 30000 microseconds is 60000 ticks: `REF` = 20, readings 60021 and 60020 (95 section 3.5). -/
theorem witness_RiseWaitTimesOutWhenExceeded :
    (given { reads .measure .r 0#32 60021#16 with refT := 20#48 } [.seq true]).ReadsAt .r 60021 ∧
    (given { reads .measure .r 0#32 60020#16 with refT := 20#48 } [.seq true]).ReadsAt .r 60020 ∧ divisor idle.ps = some 8 ∧
    ((60021 : Int) - (20#48).toNat) * 8 * 1000000 > idle.timeout.toNat * idle.clkhz.toNat ∧
    ((60020 : Int) - (20#48).toNat) * 8 * 1000000 ≤ idle.timeout.toNat * idle.clkhz.toNat :=
  ⟨⟨⟨true, rfl, rfl, rfl⟩, rfl, rfl, by decide⟩, ⟨⟨true, rfl, rfl, rfl⟩, rfl, rfl, by decide⟩, by decide, by decide, by decide⟩
/-- `START` = 501, readings 60502 and 60501 (95 section 3.5). -/
theorem witness_FallWaitTimesOutWhenExceeded :
    (given { reads .measure .f 0#32 60502#16 with startT := 501#48 } [.seq true]).ReadsAt .f 60502 ∧
    (given { reads .measure .f 0#32 60501#16 with startT := 501#48 } [.seq true]).ReadsAt .f 60501 ∧ divisor idle.ps = some 8 ∧
    ((60502 : Int) - (501#48).toNat) * 8 * 1000000 > idle.timeout.toNat * idle.clkhz.toNat ∧
    ((60501 : Int) - (501#48).toNat) * 8 * 1000000 ≤ idle.timeout.toNat * idle.clkhz.toNat :=
  ⟨⟨⟨true, rfl, rfl, rfl⟩, rfl, rfl, by decide⟩, ⟨⟨true, rfl, rfl, rfl⟩, rfl, rfl, by decide⟩, by decide, by decide, by decide⟩
theorem witness_DoneDeliversTheDistance :
    (∀ op ∈ [Op.measure, .mspeed], ∀ sample, (given { at' op .done 0#2 with sample := sample, startT := 501#48, endT := 23701#48 }
      [.seq true]).SeqAt .done true) ∧ divisor idle.ps = some 8 ∧ idle.clkhz ≠ 0#32 ∧
    (1989400 : Int) = Int.fdiv ((((23701#48).toNat : Int) - (501#48).toNat) * 8 * State.reset.params.sos.toNat * 1000)
      (2 * idle.clkhz.toNat) ∧
    false = (idle.fRange || decide ((1989400 : Int) < -9223372036854775808 ∨ 9223372036854775807 < (1989400 : Int))) ∧
    Op.mspeed ≠ .measure :=
  ⟨fun _ _ _ => ⟨rfl, rfl, rfl⟩, by decide, by decide, by decide, by decide, by decide⟩
theorem witness_TimeoutDeliversTheSentinel :
    (∀ op ∈ [Op.measure, .mspeed], ∀ sample, (given { at' op .timedOut 0#2 with sample := sample } [.seq true]).SeqAt .timedOut
      true) ∧ Op.mspeed ≠ .measure := ⟨fun _ _ _ => ⟨rfl, rfl, rfl⟩, by decide⟩
/-- A gap of one second at 16 MHz /8 is 2000000 ticks (95 section 3.2). -/
theorem witness_GapDelaysTheSecondSample :
    (given (at' .mspeed .gapRst 0#2) [.seq true]).SeqAt .gapRst true ∧
    (given (reads .mspeed .gap 30#32 33920#16) [.seq true]).ReadsAt .gap 2000000 ∧
    (given (reads .mspeed .gap 30#32 33919#16) [.seq true]).ReadsAt .gap 1999999 ∧ divisor idle.ps = some 8 ∧
    State.reset.params.dtUs.toNat * idle.clkhz.toNat ≤ 2000000 * 8 * 1000000 ∧
    1999999 * 8 * 1000000 < State.reset.params.dtUs.toNat * idle.clkhz.toNat :=
  ⟨⟨rfl, rfl, rfl⟩, ⟨⟨true, rfl, rfl, rfl⟩, rfl, rfl, by decide⟩, ⟨⟨true, rfl, rfl, rfl⟩, rfl, rfl, by decide⟩, by decide,
   by decide, by decide⟩
/-- The marker for a first and for a second sample of -1; the speed of 95 section 3.7, ninth row (floor of -3.5). -/
theorem witness_SpeedIsTheFlooredDifferenceOrTheMarker :
    (∀ x ∈ [7#64, sentinel], ∀ y ∈ [0#64, sentinel],
      (given { at' .mspeed .speed 0#2 with sample := true, dist1 := x, dist := y } [.seq true]).SeqAt .speed true) ∧
    sentinel.toInt = -1 ∧ (7#64).toInt ≠ -1 ∧ (0#64).toInt ≠ -1 ∧ State.reset.params.dtUs ≠ 0#32 ∧
    (-4 : Int) = Int.fdiv (((0#64).toInt - (7#64).toInt) * 1000000) (2000000#32).toNat :=
  ⟨fun _ _ _ _ => ⟨rfl, rfl, rfl⟩, by decide, by decide, by decide, by decide, by decide⟩

/-! ### Witnesses: the state machine and its invariants -/

theorem witness_MeasurementFollowsTheTransitionRelation :
    ∃ s t : State, s.SeqAt .rPin true ∧ phase .rPin ≠ 0#3 ∧ step s = .next t :=
  ⟨given (at' .measure .rPin 0#2) [.seq true], _, ⟨rfl, rfl, rfl⟩, by decide, rfl⟩

theorem legal_idle : Legal State.reset.params idle := by constructor <;> decide
theorem legal_rise : Legal State.reset.params (at' .measure .rPin 0#2) := by constructor <;> decide
theorem legal_delay : Legal State.reset.params (reads .delay .dl 0#32 0#16) := by constructor <;> decide

theorem witness_PhasesFollowTheChain :
    ∃ s t : State, Legal s.params s.blk ∧ s.nextEvent ≠ .reset ∧ step s = .next t :=
  ⟨given (at' .measure .rPin 0#2) [.seq true], _, legal_rise, by decide, rfl⟩
theorem witness_EchoMattersOnlyAtThePinSites : (at' .measure .r 1#2).site ≠ .rPin ∧ (at' .measure .r 1#2).site ≠ .fPin := by
  decide
theorem witness_EveryStepKeepsTheInvariants : ∃ s t : State, Legal s.params s.blk ∧ step s = .next t :=
  ⟨writing idle 0x00#7 0x04#32, _, legal_idle, rfl⟩
theorem witness_NoLegalStateStops : ∃ s : State, Legal s.params s.blk := ⟨given (at' .measure .rPin 0#2) [.seq true], legal_rise⟩
theorem witness_CommandEndsWithAResultAndTriggerLow :
    ∃ s t : State, Legal s.params s.blk ∧ s.nextEvent ≠ .reset ∧ step s = .next t ∧ s.blk.busy = true ∧ t.blk.busy = false :=
  ⟨given (reads .delay .dl 0#32 0#16) [.seq true], _, legal_delay, by decide, rfl, rfl, by decide⟩

/-! ### Witnesses: the exactness of the count -/

/-- A delay of 0 at its third step, no tick since its zeroing: the counts agree. -/
theorem exact_delay : CountsExact (given (reads .delay .dl 0#32 0#16) [.seq true]) ⟨0, 0⟩ := by
  intro _
  constructor <;> decide

theorem witness_EveryStepKeepsTheCountsExact :
    ∃ (s t : State) (w : Watch), Legal s.params s.blk ∧ CountsExact s w ∧ step s = .next t :=
  ⟨_, _, _, legal_delay, exact_delay, rfl⟩
/-- 20 ticks since the zeroing, all of them before step 2 of a read at a site of that command. -/
def accepted (op : Op) (site : Site) : State :=
  given { reads op site 0#32 20#16 with trig := pulseSite site } [.seq true]
/-- At each of the nine reading sites. -/
theorem witness_PairedReadIsExactAtItsSecondStep :
    ∀ c ∈ [(Op.rdtime, Site.ct), (.delay, .dl), (.measure, .tp), (.measure, .ref), (.measure, .r), (.mspeed, .start),
        (.mspeed, .f), (.mspeed, .endRead), (.mspeed, .gap)],
      Legal (accepted c.1 c.2).params (accepted c.1 c.2).blk ∧ CountsExact (accepted c.1 c.2) ⟨20, 20⟩ ∧
        (accepted c.1 c.2).blk.fLost = false ∧ (accepted c.1 c.2).blk.fOvfwrap = false ∧
        (accepted c.1 c.2).nextEvent = .seq true ∧ (accepted c.1 c.2).blk.seqEnabled = true ∧
        (accepted c.1 c.2).blk.rp = 3#2 ∧ (accepted c.1 c.2).blk.ovf = (accepted c.1 c.2).blk.o1 ∧
        divisor (accepted c.1 c.2).blk.ps = some 8 ∧ (accepted c.1 c.2).blk.site = c.2 := by
  intro c hc
  simp only [List.mem_cons, List.not_mem_nil, or_false] at hc
  rcases hc with rfl | rfl | rfl | rfl | rfl | rfl | rfl | rfl | rfl <;>
    exact ⟨by constructor <;> decide, fun _ => by constructor <;> decide, rfl, rfl, rfl, rfl, rfl, rfl, rfl, rfl⟩
theorem witness_DelayNeverEndsEarly :
    ∃ (s t : State) (w : Watch), Legal s.params s.blk ∧ CountsExact s w ∧ s.blk.fLost = false ∧ s.blk.fOvfwrap = false ∧
      s.nextEvent ≠ .reset ∧ s.blk.op = .delay ∧ s.blk.busy = true ∧ step s = .next t ∧ t.blk.busy = false ∧
        divisor s.blk.ps = some 8 :=
  ⟨given (reads .delay .dl 0#32 0#16) [.seq true], _, _, legal_delay, exact_delay, rfl, rfl, by decide, rfl, rfl, rfl,
   by decide, by decide⟩
theorem witness_TimeIsMonotonicBetweenZeroings :
    ∃ s t : State, Legal s.params s.blk ∧ step s = .next t ∧ s.zeroes = false ∧ t.blk.fLost = false ∧ t.blk.fOvfwrap = false :=
  ⟨given idle [.tick], _, legal_idle, rfl, by decide, by decide, by decide⟩
theorem witness_RdtimeDeliversInThreeSteps :
    (given idle [.host (.write 0x00#7 0x02#32), .seq true, .seq false, .seq true]).events =
      .host (.write 0x00#7 0x02#32) :: .seq true :: .seq false :: .seq true :: [] ∧
    idle.busy = false ∧ idle.cfgd = true ∧ idle.ovp = false ∧ divisor idle.ps = some 8 ∧ idle.clkhz ≠ 0#32 := by decide
/-- The two clauses: `DURATION` 0 and 1. -/
theorem witness_DelayOfZeroEndsAtItsFirstRead :
    (given idle [.host (.write 0x00#7 0x03#32), .seq true, .seq false, .seq true, .seq true]).events =
      .host (.write 0x00#7 0x03#32) :: .seq true :: .seq false :: .seq true :: .seq true :: [] ∧
    idle.busy = false ∧ idle.cfgd = true ∧ idle.ovp = false ∧ idle.ps ≠ .stopped ∧ idle.clkhz ≠ 0#32 ∧ idle.duration = 0#32 ∧
    ({ idle with duration := 1#32 } : Block).duration ≠ 0#32 := by decide

end Sys2Proof.Tests
end

