-- ==== Sys2Proof/Proofs/Scope.lean ====
section
/-!
PROOFS. The statements of spec/00_scope.md: the schedule of the inputs, and the exact time behind the integer conversions.
-/
namespace Sys2Proof.Machine

/-! ### The next input -/

/-- Settles O11, by the two cases of the queue of placed inputs. -/
theorem stepConsumesOldestInputOrFreeOne : Obligations.StepConsumesOldestInputOrFreeOne := by
  refine ⟨fun s e es h => ?_, fun s h => ?_⟩
  · rw [step, State.nextEvent_cons h, State.advance_cons h]
  · rw [step, State.nextEvent_nil h, State.advance_nil h]

/-! ### The exact time -/

/-- R12: the tick count of the counters, its wrap period written as a number. -/
theorem ticks_eq (w : CounterWidth) (o : Word) (c : BitVec 16) :
    ticks w o c = o.toNat * (if w = .w8 then 256 else 65536) + c.toNat := by
  cases w <;> rfl

/-- R12: the exact microseconds of a tick count, cleared of `CLKHZ`. -/
theorem timeSec_us_mul_clk {d clk : Nat} (t : Int) (hclk : 0 < clk) :
    timeSec d clk t * 1000000 * (clk : Rat) = ((t * d * 1000000 : Int) : Rat) := by
  rw [mul_right_comm, timeSec_mul_clk t hclk]
  push_cast
  rfl

/-- R110: `TimeUs` is the floor of the exact microseconds. -/
theorem timeUs_eq_floor {clk : Nat} (d t : Nat) (hclk : 0 < clk) :
    timeUs d clk t = (timeSec d clk t * 1000000).floor := by
  have hexact : timeSec d clk t * 1000000 = (((t : Int) * d * 1000000 : Int) : Rat) / ((clk : Int) : Rat) := by
    rw [timeSec]
    push_cast
    ring
  rw [hexact, timeUs, floorDiv_eq_floor (by exact_mod_cast hclk)]

/-- R12: `Reached` compares the exact microseconds with the bound. -/
theorem reached_iff_le_timeSec {d clk : Nat} (t : Int) (us : Nat) (hclk : 0 < clk) :
    reached d clk t us = true ↔ (us : Rat) ≤ timeSec d clk t * 1000000 := by
  have hpos : (0 : Rat) < clk := by exact_mod_cast hclk
  rw [← mul_le_mul_iff_left₀ hpos, timeSec_us_mul_clk t hclk, reached, decide_eq_true_iff, ge_iff_le]
  exact_mod_cast Iff.rfl

/-- R12: `Exceeded` compares the exact microseconds with the bound, strictly. -/
theorem exceeded_iff_lt_timeSec {d clk : Nat} (t : Int) (us : Nat) (hclk : 0 < clk) :
    exceeded d clk t us = true ↔ (us : Rat) < timeSec d clk t * 1000000 := by
  have hpos : (0 : Rat) < clk := by exact_mod_cast hclk
  rw [← mul_lt_mul_iff_left₀ hpos, timeSec_us_mul_clk t hclk, exceeded, decide_eq_true_iff, gt_iff_lt]
  exact_mod_cast Iff.rfl

/-- R111: `DistUm` is the floor of half the way sound goes in the exact time between the two readings, in micrometres. -/
theorem distUm_eq_floor {clk : Nat} (d sos a b : Nat) (hclk : 0 < clk) :
    distUm d clk sos a b = (timeSec d clk ((b : Int) - a) * (sos : Rat) / 2 * 1000).floor := by
  have hexact : timeSec d clk ((b : Int) - a) * (sos : Rat) / 2 * 1000 =
      ((((b : Int) - a) * d * sos * 1000 : Int) : Rat) / ((2 * clk : Int) : Rat) := by
    rw [timeSec]
    push_cast
    ring
  rw [hexact, distUm, floorDiv_eq_floor (by omega)]

/-- Settles O33: the conversions and the comparisons are each tied to the exact time, and the bounds of the floor are those of
the integer division. -/
theorem timeUsIsTheFloorOfTheExactTime : Obligations.TimeUsIsTheFloorOfTheExactTime := by
  intro d clk hclk
  refine ⟨fun w k r => ?_, fun t => ⟨timeUs_eq_floor d t hclk, floorDiv_bounds (by exact_mod_cast hclk)⟩,
    fun t us => ⟨reached_iff_le_timeSec t us hclk, exceeded_iff_lt_timeSec t us hclk⟩,
    fun sos a b => distUm_eq_floor d sos a b hclk⟩
  rw [timeSec_mul_clk _ hclk, ← ticks_eq]
  push_cast
  rfl

end Sys2Proof.Machine
end

