-- ==== Sys2Proof/Proofs/State.lean ====
section
/-!
PROOFS. The statements of spec/10_state.md: the values after reset, the invariants of R55 and of the rules beside it, and the
exactness of the counts. Every invariant is proved by cases on `BlockStep` and `SeqMove`.
-/
namespace Sys2Proof.Machine

/-! ### The reset state -/

/-- The block after reset meets the invariants whatever the legal parameters. -/
theorem legal_reset {p : Params} (hp : p.wellFormed = true) : Legal p Block.reset := by
  have hw : 0 < wrapPeriod p.width := by
    have := wrapPeriod_bounds p.width
    omega
  exact
    { params := hp
      enable := rfl
      clockStopped := by decide
      clockKnown := by decide
      configured := by decide
      idleSite := by decide
      readStep := by decide
      unconfigured := by decide
      trigLevel := by decide
      siteOp := rfl
      sampleOp := by decide
      opKnown := by decide
      noResult := by decide
      delivered := by decide
      sentinelOut := by decide
      markerOut := by decide
      cntRange := hw
      c1Range := hw
      refRange := Nat.mul_pos (by decide) hw
      startRange := Nat.mul_pos (by decide) hw
      endRange := Nat.mul_pos (by decide) hw }

/-! ### The sequencer's moves, by what the invariants speak of -/

/-- A move that runs on keeps `RES` and does not go to `S_IDLE`; a move that ends the command finishes with a result, which is
`TIMEOUT` only with MEASURE's sentinel and `INDET` only with MSPEED's marker (R44, R106, R154, R157). -/
theorem SeqMove.continues_or_finishes {p : Params} {echo : Bool} {b b' : Block} (h : SeqMove p echo b b') :
    (b'.busy = b.busy ∧ b'.res = b.res ∧ b'.site ≠ .idle) ∨
      (b'.busy = false ∧ b'.site = .idle ∧ b'.res ≠ .none ∧ (b'.res = .timeout → b.op = .measure ∧ b'.dist = sentinel) ∧
        (b'.res = .indet → b.site = .speed ∧ b'.speed = speedMarker)) := by
  have hread : isReading b.site = true → b.site ≠ .idle := by cases b.site <;> decide
  cases h with
  | readFirst hs | readSecond hs | readRetry hs => exact .inl ⟨rfl, rfl, hread hs⟩
  | delayAgain hs => exact .inl ⟨rfl, rfl, hread (by rcases hs with hs | hs | hs <;> rw [hs] <;> rfl)⟩
  | time hs | delayEnd hs | done hs | timeout hs | noSpeed hs | speed hs => right; simp [*]
  | _ => left; simp

/-- The read step is 1 to 3 exactly at the reading sites (R41). -/
theorem SeqMove.readStep {p : Params} {echo : Bool} {b b' : Block} (h : SeqMove p echo b b') :
    b'.rp ≠ 0#2 ↔ isReading b'.site = true := by
  cases h with
  | readFirst hs | readSecond hs | readRetry hs => simp [hs]
  | delayAgain hs => rcases hs with hs | hs | hs <;> simp [hs, isReading]
  | _ => simp [isReading]

/-- `S_TRIG_ON` and `S_TRIG_OFF` switch the trigger at the two ends of the pulse; every other move keeps the level and stays
inside or outside the pulse (R48, R159 a). -/
theorem SeqMove.trigLevel {p : Params} {echo : Bool} {b b' : Block} (h : SeqMove p echo b b')
    (ht : b.trig = true ↔ pulseSite b.site = true) : b'.trig = true ↔ pulseSite b'.site = true := by
  cases h with
  | readFirst | readSecond | readRetry | delayAgain => exact ht
  | trigOn | trigOff => simp [pulseSite]
  | _ => rw [‹b.site = _›] at ht; exact ht

/-- A move goes to a site of the command that runs: within a command's own sites, from the first sample of MSPEED to the gap and
from the second to the speed (R31, R32, R142). -/
theorem SeqMove.siteOp {p : Params} {echo : Bool} {b b' : Block} (h : SeqMove p echo b b')
    (ho : siteAllows b.site b.op b.sample = true) : siteAllows b'.site b'.op b'.sample = true := by
  cases h with
  | readFirst | readSecond | readRetry | delayAgain => exact ho
  | _ => rw [‹b.site = _›] at ho; simp_all [siteAllows]

/-- `SAMPLE` is set by the end of the gap alone, a site of MSPEED (R32, R156). -/
theorem SeqMove.sampleOp {p : Params} {echo : Bool} {b b' : Block} (h : SeqMove p echo b b')
    (ho : siteAllows b.site b.op b.sample = true) (hs : b.sample = true → b.op = .mspeed) :
    b'.sample = true → b'.op = .mspeed := by
  cases h with
  | gapEnd hg => intro _; rw [hg] at ho; simp_all [siteAllows]
  | _ => exact hs

/-- `CNT` and `C1` stay below the wrap period, and a tick register keeps its reading or takes the accepted pair's
(R21, R33 to R36). -/
theorem SeqMove.ranges {p : Params} {echo : Bool} {b b' : Block} (h : SeqMove p echo b b') (hl : Legal p b) :
    b'.cnt.toNat < wrapPeriod p.width ∧ b'.c1.toNat < wrapPeriod p.width ∧
      b'.refT.toNat < 4294967296 * wrapPeriod p.width ∧ b'.startT.toNat < 4294967296 * wrapPeriod p.width ∧
        b'.endT.toNat < 4294967296 * wrapPeriod p.width := by
  have hcnt := hl.cntRange
  have hzero : (0#16).toNat < wrapPeriod p.width := Nat.zero_lt_of_lt hcnt
  have hpair : (BitVec.ofNat 48 (ticks p.width b.o1 b.c1)).toNat < 4294967296 * wrapPeriod p.width := by
    rw [ticks_stored]
    exact ticks_lt_capacity _ _ _ hl.c1Range
  cases h with
  | readSecond => exact ⟨hcnt, hcnt, hl.refRange, hl.startRange, hl.endRange⟩
  | delayZero | pulseZero | gapZero => exact ⟨hzero, hl.c1Range, hl.refRange, hl.startRange, hl.endRange⟩
  | ref => exact ⟨hcnt, hl.c1Range, hpair, hl.startRange, hl.endRange⟩
  | start => exact ⟨hcnt, hl.c1Range, hl.refRange, hpair, hl.endRange⟩
  | endRead => exact ⟨hcnt, hl.c1Range, hl.refRange, hl.startRange, hpair⟩
  | _ => exact ⟨hcnt, hl.c1Range, hl.refRange, hl.startRange, hl.endRange⟩

/-! ### Each step keeps the invariants -/

/-- R63: an operand write leaves everything but the three operand registers. -/
theorem Block.writeOperand_frame (b : Block) (off : Offset) (v : Word) :
    ∃ c d t, b.writeOperand off v = { b with clkhz := c, duration := d, timeout := t } := by
  rcases b.writeOperand_cases off v with h | ⟨-, h⟩ | h | h <;> exact ⟨_, _, _, h⟩

/-- R104: an enabled sequencer has a command to run and no enabled request to wait for. -/
theorem Block.seqEnabled_iff (b : Block) : b.seqEnabled = true ↔ b.busy = true ∧ (b.ovp = false ∨ b.oie = false) := by
  simp [Block.seqEnabled]

/-- R102: the handler is enabled by a pending request and its enable. -/
theorem Block.ovhEnabled_iff (b : Block) : b.ovhEnabled = true ↔ b.ovp = true ∧ b.oie = true := by
  simp [Block.ovhEnabled]

/-- R100: below `MAXC` a tick adds one to `CNT` and stays in range. -/
theorem Block.cnt_add_one {cw : CounterWidth} {b : Block} (hc : b.cnt.toNat < wrapPeriod cw) (hne : b.cnt.toNat ≠ maxCount cw) :
    (b.cnt + 1#16).toNat = b.cnt.toNat + 1 ∧ b.cnt.toNat + 1 < wrapPeriod cw := by
  have hmax := maxCount_succ cw
  have hle := (wrapPeriod_bounds cw).2
  have hnext : b.cnt.toNat + (1#16).toNat < 2 ^ 16 := by
    rw [BitVec.toNat_ofNat]
    omega
  exact ⟨BitVec.toNat_add_of_lt hnext, by omega⟩

/-- While a command runs no request is pending when the sequencer may step (R55 a, d, R104). -/
theorem Legal.ovp_of_seqEnabled {p : Params} {b : Block} (hl : Legal p b) (hen : b.seqEnabled = true) : b.ovp = false := by
  obtain ⟨hb, hpend⟩ := b.seqEnabled_iff.1 hen
  have hoie : b.oie = true := hl.enable.trans (hl.configured hb)
  simpa [hoie] using hpend

/-- A running counter clock says that the block is configured (R55 b). -/
theorem Legal.cfgd_of_running {p : Params} {b : Block} (hl : Legal p b) (hps : b.ps ≠ .stopped) : b.cfgd = true := by
  by_contra hc
  exact hps (hl.clockStopped.2 (by simpa using hc))

/-- Every move of a running command keeps the invariants. -/
theorem Legal.seqMove {p : Params} {echo : Bool} {b b' : Block} (hl : Legal p b) (hb : b.busy = true)
    (h : SeqMove p echo b b') : Legal p b' := by
  have hcfgd := hl.configured hb
  have hres := hl.noResult hb
  obtain ⟨hclk, hps, hoie, hcf, -, -, hop, -⟩ := h.keeps
  obtain ⟨hcnt, hc1, href, hstart, hend⟩ := h.ranges hl
  have hsite : b'.site = .idle ↔ b'.busy = false := by
    rcases h.continues_or_finishes with ⟨hbusy, -, hs⟩ | ⟨hbusy, hs, -⟩ <;> simp [hbusy, hs, hb]
  have hnone : b'.busy = true → b'.res = .none := by
    rcases h.continues_or_finishes with ⟨-, hr, -⟩ | ⟨hbusy, -⟩
    · exact fun _ => hr.trans hres
    · simp [hbusy]
  have hsome : b'.busy = false → b'.res ≠ .none := by
    rcases h.continues_or_finishes with ⟨hbusy, -⟩ | ⟨-, -, hr, -⟩
    · simp [hbusy, hb]
    · exact fun _ => hr
  exact
    { params := hl.params
      enable := by rw [hoie, hcf, hl.enable]
      clockStopped := by rw [hps, hcf]; exact hl.clockStopped
      clockKnown := by rw [hclk, hcf]; exact hl.clockKnown
      configured := fun _ => hcf.trans hcfgd
      idleSite := hsite
      readStep := h.readStep
      unconfigured := by simp [hcf, hcfgd]
      trigLevel := h.trigLevel hl.trigLevel
      siteOp := h.siteOp hl.siteOp
      sampleOp := h.sampleOp hl.siteOp hl.sampleOp
      opKnown := by rw [hop, hcf]; exact hl.opKnown
      noResult := hnone
      delivered := fun hbusy _ _ => hsome hbusy
      sentinelOut := by
        rcases h.continues_or_finishes with ⟨-, hr, -⟩ | ⟨-, -, -, ht, -⟩
        · simp [hr, hres]
        · rwa [hop]
      markerOut := by
        rcases h.continues_or_finishes with ⟨-, hr, -⟩ | ⟨-, -, -, -, hi⟩
        · simp [hr, hres]
        · intro hr
          obtain ⟨hspeed, hmark⟩ := hi hr
          have ho := hl.siteOp
          rw [hspeed] at ho
          simp_all [siteAllows]
      cntRange := hcnt
      c1Range := hc1
      refRange := href
      startRange := hstart
      endRange := hend }

/-- A tick of a running counter clock keeps `CNT` in range (R100). -/
theorem Legal.tick {p : Params} {b : Block} (hl : Legal p b) (hen : b.tickEnabled = true) : Legal p (b.tick p.width) := by
  have hcfgd : b.cfgd = true := hl.cfgd_of_running (by simpa [Block.tickEnabled] using hen)
  rcases b.tick_cases p.width with ⟨-, ht⟩ | ⟨hne, ht⟩ <;> rw [ht]
  · exact { hl with unconfigured := by simp [hcfgd], cntRange := Nat.zero_lt_of_lt hl.cntRange }
  · obtain ⟨hnext, hlt⟩ := Block.cnt_add_one hl.cntRange hne
    exact { hl with unconfigured := by simp [hcfgd], cntRange := hnext.trans_lt hlt }

/-- The handler runs in a configured block only and writes nothing the other invariants speak of (R102). -/
theorem Legal.takeOverflow {p : Params} {b : Block} (hl : Legal p b) (hen : b.ovhEnabled = true) :
    Legal p b.takeOverflow := by
  have hcfgd : b.cfgd = true := hl.enable.symm.trans (b.ovhEnabled_iff.1 hen).2
  rcases b.takeOverflow_cases with ⟨-, ht⟩ | ⟨-, ht⟩ <;> rw [ht]
  · exact { hl with unconfigured := by simp [hcfgd] }
  · exact { hl with unconfigured := by simp [hcfgd] }

/-- An operand write stores `CLKHZ` before CONFIGURE only (R63). -/
theorem Legal.writeOperand {p : Params} {b : Block} (hl : Legal p b) (off : Offset) (v : Word) :
    Legal p (b.writeOperand off v) := by
  rcases b.writeOperand_cases off v with h | ⟨hc, h⟩ | h | h <;> rw [h]
  · exact hl
  · exact { hl with clockKnown := by simp [hc] }
  · exact { hl with }
  · exact { hl with }

/-- A rejected command writes `ERR` only (R180). -/
theorem Legal.reject {p : Params} {b : Block} (hl : Legal p b) (e : Err) : Legal p (b.reject e) := { hl with }

/-- At `S_IDLE` the trigger is low (R48). -/
theorem Legal.trig_of_idle {p : Params} {b : Block} (hl : Legal p b) (hs : b.site = .idle) : b.trig = false := by
  by_contra ht
  have := hl.trigLevel.1 (by simpa using ht)
  rw [hs] at this
  cases this

/-- While no command runs no paired read does (R55 e, f). -/
theorem Legal.rp_of_idle {p : Params} {b : Block} (hl : Legal p b) (hb : b.busy = false) : b.rp = 0#2 := by
  by_contra hrp
  have hread := hl.readStep.1 hrp
  rw [hl.idleSite.2 hb] at hread
  cases hread

/-- A successful CONFIGURE of an idle block with a known clock (R120). -/
theorem Legal.applyConfig {p : Params} {b : Block} (hl : Legal p b) (hb : b.busy = false) (hc : b.cfgd = false)
    (hz : b.clkhz ≠ 0#32) {q : Prescaler} (hq : q ≠ .stopped) : Legal p (b.applyConfig q) := by
  have hop : b.op = .none := hl.opKnown.2 hc
  have hidle : b.site = .idle := hl.idleSite.2 hb
  exact
    { hl with
      enable := rfl
      clockStopped := by simp [Block.applyConfig, hq]
      clockKnown := fun _ => hz
      configured := fun _ => rfl
      unconfigured := by simp [Block.applyConfig]
      siteOp := by simp [Block.applyConfig, hidle, siteAllows]
      sampleOp := fun h => by simpa [hop] using hl.sampleOp h
      opKnown := by simp [Block.applyConfig]
      delivered := fun _ _ h => absurd rfl h
      sentinelOut := fun h => by simpa [hop] using hl.sentinelOut h
      markerOut := fun h => by simpa [hop] using hl.markerOut h
      cntRange := Nat.zero_lt_of_lt hl.cntRange }

/-- What a timing command starts with: a site of its own other than `S_IDLE`, outside the trigger pulse, at step 1 of a paired
read if it is a reading site (R81, R121). -/
theorem timingStarts_start {i : Instr} {op : Op} {site : Site} {rp : BitVec 2} (h : (i, op, site, rp) ∈ timingStarts) :
    op ≠ .none ∧ site ≠ .idle ∧ (rp ≠ 0#2 ↔ isReading site = true) ∧ pulseSite site = false ∧
      siteAllows site op false = true ∧ rp ≠ 2#2 ∧ rp ≠ 3#2 := by
  simp only [timingStarts, List.mem_cons, Prod.mk.injEq, List.not_mem_nil, or_false] at h
  rcases h with ⟨-, rfl, rfl, rfl⟩ | ⟨-, rfl, rfl, rfl⟩ | ⟨-, rfl, rfl, rfl⟩ | ⟨-, rfl, rfl, rfl⟩ <;> decide

/-- The acceptance of a timing command by an idle configured block (R121). -/
theorem Legal.begin {p : Params} {b : Block} (hl : Legal p b) (hb : b.busy = false) (hc : b.cfgd = true) {i : Instr}
    {op : Op} {site : Site} {rp : BitVec 2} (h : (i, op, site, rp) ∈ timingStarts) : Legal p (b.begin op site rp) := by
  obtain ⟨hop, hsite, hrp, hpulse, hallows, -⟩ := timingStarts_start h
  have htrig : b.trig = false := hl.trig_of_idle (hl.idleSite.2 hb)
  exact
    { hl with
      configured := fun _ => hc
      idleSite := by simp [Block.begin, hsite]
      readStep := hrp
      trigLevel := by simp [Block.begin, htrig, hpulse]
      siteOp := hallows
      sampleOp := by simp [Block.begin]
      opKnown := by simp [Block.begin, hop, hc]
      noResult := fun _ => rfl
      delivered := by simp [Block.begin]
      sentinelOut := by simp [Block.begin]
      markerOut := by simp [Block.begin] }

/-- Every change a step makes to the block keeps the invariants. -/
theorem BlockStep.legal {s : State} {b : Block} (h : BlockStep s b) (hl : Legal s.params s.blk) : Legal s.params b := by
  cases h with
  | tickOff | ovhOff | seqOff | read | ignored => exact hl
  | tick _ hen => exact hl.tick hen
  | ovh _ hen => exact hl.takeOverflow hen
  | seq _ hen hm => exact hl.seqMove (s.blk.seqEnabled_iff.1 hen).1 hm
  | operand => exact hl.writeOperand _ _
  | reject e => exact hl.reject e
  | config _ hb _ hp hc hz => exact hl.applyConfig hb hc hz (prescalerOf_some hp).1
  | begin _ hb _ hc hi => exact hl.begin hb hc hi
  | reset => exact legal_reset hl.params

/-- Settles O51, by cases on everything a step can do. -/
theorem everyStepKeepsTheInvariants : Obligations.EveryStepKeepsTheInvariants := by
  intro s t hl h
  obtain ⟨hp, hb⟩ := step_block h
  rw [hp]
  exact hb.legal hl

/-- Settles O50: the model's default parameters are legal. -/
theorem resetIsLegal : Obligations.ResetIsLegal := legal_reset (by decide)

/-! ### No legal state stops -/

/-- In a running command `CLKHZ` is known and `PS` selects a divisor (R55 b to d). -/
theorem Legal.divisor_of_busy {p : Params} {b : Block} (hl : Legal p b) (hb : b.busy = true) :
    b.clkhz ≠ 0#32 ∧ ∃ d, divisor b.ps = some d := by
  have hc := hl.configured hb
  refine ⟨hl.clockKnown hc, divisor_of_running fun hps => ?_⟩
  rw [hl.clockStopped.1 hps] at hc
  cases hc

/-- A paired read at step 1, 2 or 3 answers if its site's exit does (R107). -/
theorem readPair_answers {w : CounterWidth} {b : Block} {exit : Nat → Except Refusal Block} (hr : b.rp ≠ 0#2)
    (hx : ∀ t, ∃ b', exit t = .ok b') : ∃ b', readPair w b exit = .ok b' := by
  have hrp : ∀ r : BitVec 2, r ≠ 0#2 → r = 1#2 ∨ r = 2#2 ∨ r = 3#2 := by decide
  unfold readPair
  rcases hrp b.rp hr with h | h | h
  · exact ⟨_, if_pos h⟩
  · exact ⟨_, by simp [h]; rfl⟩
  · by_cases ho : b.ovf = b.o1
    · simpa [h, ho] using hx _
    · exact ⟨_, by simp [h, ho]; rfl⟩

/-- A comparison with a bound answers on both of its outcomes once there is a divisor (R12). -/
theorem withDivisor_ite_answers {b : Block} {d : Nat} (hd : divisor b.ps = some d) (c : Nat → Bool) (x y : Block) :
    ∃ b', withDivisor b (fun d => if c d then .ok x else .ok y) = .ok b' := by
  rw [withDivisor_eq _ hd]
  split
  · exact ⟨x, rfl⟩
  · exact ⟨y, rfl⟩

/-- The sequencer of a running command answers a next block at every site (log 10). -/
theorem Legal.seqStep_answers {p : Params} {b : Block} (hl : Legal p b) (hb : b.busy = true) (echo : Bool) :
    ∃ b', seqStep p echo b = .ok b' := by
  obtain ⟨hz, d, hd⟩ := hl.divisor_of_busy hb
  have hread := hl.readStep.2
  unfold seqStep
  cases hs : b.site with
  | idle => simp [hl.idleSite.1 hs] at hb
  | ct => exact readPair_answers (hread (hs ▸ rfl)) fun _ => ⟨_, withClock_eq _ hd hz⟩
  | dl | tp | gap | r | f => exact readPair_answers (hread (hs ▸ rfl)) fun _ => withDivisor_ite_answers hd _ _ _
  | ref | start | endRead => exact readPair_answers (hread (hs ▸ rfl)) fun _ => ⟨_, rfl⟩
  | done => exact ⟨_, withClock_eq _ hd hz⟩
  | speed =>
    have hgap : p.dtUs ≠ 0#32 := by
      have := hl.params
      simp_all [Params.wellFormed]
    by_cases hm : b.dist1 = sentinel ∨ b.dist = sentinel
    · exact ⟨_, if_pos hm⟩
    · exact ⟨_, (if_neg hm).trans (if_neg hgap)⟩
  | dlRst | trigOn | tpRst | trigOff | rPin | fPin | timedOut | gapRst => exact ⟨_, rfl⟩

/-- A host write answers a next state (R63, R81). -/
theorem hostWrite_answers (off : Offset) (v : Word) (s : State) : ∃ t, hostWrite off v s = .next t := by
  rcases hostWrite_cases off v s with ⟨-, h⟩ | ⟨-, -, h⟩ | ⟨-, -, i, -, h⟩ | ⟨-, -, -, h⟩ <;> rw [h]
  case inr.inr.inl =>
    rcases exec_cases i s with ⟨-, h⟩ | ⟨-, ⟨e, h⟩ | ⟨_, p, -, -, -, -, h⟩ | ⟨-, op, site, rp, -, h⟩⟩
    all_goals exact ⟨_, h⟩
  all_goals exact ⟨_, rfl⟩

/-- Settles O52, by the agent whose turn it is: the sequencer alone can refuse, and not in a legal state. -/
theorem noLegalStateStops : Obligations.NoLegalStateStops := by
  intro s hl
  cases he : s.nextEvent with
  | tick => exact ⟨_, step_tick he⟩
  | ovh => exact ⟨_, step_ovh he⟩
  | seq echo =>
    cases hen : s.blk.seqEnabled with
    | false => exact ⟨_, by rw [step_seq he, sequencerStep, State.advance_blk, hen]; rfl⟩
    | true =>
      obtain ⟨b, hb⟩ := hl.seqStep_answers (s.blk.seqEnabled_iff.1 hen).1 echo
      exact ⟨_, by rw [step_seq_enabled he hen, hb]⟩
  | host a =>
    cases a with
    | read off => exact ⟨_, step_read he⟩
    | write off v =>
      rw [step_write he]
      exact hostWrite_answers off v _
  | reset => exact ⟨_, step_reset he⟩

/-! ### `ERR`, `SEQST` and the values after reset -/

/-- Settles O25: of everything a step can do, only reset and a `CMD` write that is not ignored write `ERR`. -/
theorem onlyCommandWritesChangeErr : Obligations.OnlyCommandWritesChangeErr := by
  intro s t h hne
  obtain ⟨-, hb⟩ := step_block h
  generalize t.blk = b at hb hne
  cases hb with
  | tickOff | ovhOff | seqOff | read | ignored => exact absurd rfl hne
  | tick => rcases s.blk.tick_cases s.params.width with ⟨-, ht⟩ | ⟨-, ht⟩ <;> exact absurd (by rw [ht]) hne
  | ovh => rcases s.blk.takeOverflow_cases with ⟨-, ht⟩ | ⟨-, ht⟩ <;> exact absurd (by rw [ht]) hne
  | seq _ _ hm =>
    obtain ⟨-, -, -, -, -, -, -, herr, -⟩ := hm.keeps
    exact absurd herr hne
  | @operand off v =>
    obtain ⟨c, d, t, ho⟩ := s.blk.writeOperand_frame off v
    exact absurd (by rw [ho]) hne
  | reject _ he hbusy | config he hbusy | begin he hbusy => exact .inr ⟨hbusy, _, he⟩
  | reset he => exact .inl he

/-- R51: a field of five bits at bit 0 and one of two bits at bit 5, as a number. -/
theorem fieldAt_or_fieldAt_toNat (x : BitVec 5) (y : BitVec 2) :
    (fieldAt 0 x ||| fieldAt 5 y).toNat = x.toNat + 32 * y.toNat := by
  have hx := x.isLt
  have hy := y.isLt
  simp only [fieldAt, BitVec.toNat_or, BitVec.toNat_shiftLeft, BitVec.toNat_setWidth]
  rw [Nat.mod_eq_of_lt (a := x.toNat) (by omega), Nat.mod_eq_of_lt (a := y.toNat) (by omega), Nat.shiftLeft_zero,
    Nat.mod_eq_of_lt (a := x.toNat) (by omega), Nat.mod_eq_of_lt (by rw [Nat.shiftLeft_eq]; omega), Nat.or_comm,
    ← Nat.shiftLeft_add_eq_or_of_lt hx, Nat.shiftLeft_eq]
  omega

/-- Settles O16: the two fields do not overlap, and the codes are listed. -/
theorem seqstLayoutAndSiteCodes : Obligations.SeqstLayoutAndSiteCodes :=
  ⟨fun b => ⟨rfl, fieldAt_or_fieldAt_toNat (siteCode b.site) b.rp⟩, rfl, rfl⟩

/-- Settles O1: every item as `Block.reset` gives it. -/
theorem resetLeavesZeroesAndTimeout30000 : Obligations.ResetLeavesZeroesAndTimeout30000 := by
  unfold Obligations.ResetLeavesZeroesAndTimeout30000
  decide

/-! ### The onlooker's count after a step -/

/-- The counts speak of the block and the parameters alone. -/
theorem Exact.congr {s t : State} {w : Watch} (hp : t.params = s.params) (hb : t.blk = s.blk) (hx : Exact s w) :
    Exact t w := by
  obtain ⟨blk, params, _, _, _⟩ := t
  subst hp hb
  exact ⟨hx.count, hx.firstRead, hx.pair, hx.past⟩

/-- After a zeroing step the onlooker counts from 0 (R105, R200). -/
theorem Watch.after_zeroes (w : Watch) {s : State} (hz : s.zeroes = true) : w.after s = { w with ticks := 0 } := by
  simp [Watch.after, hz]

/-- A tick of a running counter clock is counted. -/
theorem Watch.after_tick (w : Watch) {s : State} (he : s.nextEvent = .tick) (hen : s.blk.tickEnabled = true) :
    w.after s = { w with ticks := w.ticks + 1 } := by
  simp [Watch.after, State.zeroes, he, hen]

/-- The turn of a stopped counter clock is not counted. -/
theorem Watch.after_tickOff (w : Watch) {s : State} (he : s.nextEvent = .tick) (hen : s.blk.tickEnabled = false) :
    w.after s = w := by
  simp [Watch.after, State.zeroes, he, hen]

/-- The handler's turn is not counted. -/
theorem Watch.after_ovh (w : Watch) {s : State} (he : s.nextEvent = .ovh) : w.after s = w := by
  simp [Watch.after, State.zeroes, he]

/-- The turn of a disabled sequencer is not counted. -/
theorem Watch.after_seqOff (w : Watch) {s : State} {echo : Bool} (he : s.nextEvent = .seq echo)
    (hen : s.blk.seqEnabled = false) : w.after s = w := by
  simp [Watch.after, State.zeroes, he, hen]

/-- A read of the host is not counted. -/
theorem Watch.after_read (w : Watch) {s : State} {off : Offset} (he : s.nextEvent = .host (.read off)) : w.after s = w := by
  simp [Watch.after, State.zeroes, he]

/-- A write of the host that is no successful CONFIGURE is not counted. -/
theorem Watch.after_write (w : Watch) {s : State} {off : Offset} {v : Word} (he : s.nextEvent = .host (.write off v))
    (hn : s.blk.busy = true ∨ off ≠ 0x00#7 ∨ configureSucceeds s.blk (commandByte v) = false) : w.after s = w := by
  have hz : s.zeroes = false := by
    rcases hn with hn | hn | hn <;> simp [State.zeroes, he, hn]
  simp [Watch.after, hz, he]

/-- The sites at which a `SEQ` step zeroes the counters (R105). -/
def zeroSite (site : Site) : Prop := site = .dlRst ∨ site = .tpRst ∨ site = .gapRst

/-- No reading site zeroes the counters (R88, R105). -/
theorem not_zeroSite_of_reading {site : Site} (h : isReading site = true) : ¬zeroSite site := by
  rintro (rfl | rfl | rfl) <;> cases h

/-- The turn of an enabled sequencer zeroes the counters exactly at the zeroing sites. -/
theorem State.zeroes_seq {s : State} {echo : Bool} (he : s.nextEvent = .seq echo) (hen : s.blk.seqEnabled = true) :
    s.zeroes = true ↔ zeroSite s.blk.site := by
  simp [State.zeroes, zeroSite, he, hen, or_assoc]

/-- A `SEQ` step away from the zeroing sites notes the count at step 2 of a paired read (R107, R109). -/
theorem Watch.after_seq (w : Watch) {s : State} {echo : Bool} (he : s.nextEvent = .seq echo)
    (hen : s.blk.seqEnabled = true) (hs : ¬zeroSite s.blk.site) :
    w.after s = if isReading s.blk.site = true ∧ s.blk.rp = 2#2 then { w with atRead := w.ticks } else w := by
  have hz : ¬s.zeroes = true := mt (State.zeroes_seq he hen).1 hs
  simp [Watch.after, hz, he, hen]

/-! ### What each step does to exact counts -/

/-- The counts of a block at zero, outside steps 2 and 3 of a paired read. -/
theorem Exact.of_zeroed {s : State} {w : Watch} {b : Block} (hcnt : b.cnt = 0#16) (hovf : b.ovf = 0#32)
    (hovp : b.ovp = false) (hr : b.rp ≠ 2#2 ∧ b.rp ≠ 3#2) : Exact (s.withBlk b) { w with ticks := 0 } := by
  obtain ⟨h2, h3⟩ := hr
  constructor <;> simp [Block.elapsed, ticks, hcnt, hovf, hovp, h2, h3]

/-- A step that leaves the counters alone and ends outside steps 2 and 3 of a paired read. -/
theorem Exact.of_outside {s : State} {w : Watch} {b : Block} (hx : Exact s w) (hcnt : b.cnt = s.blk.cnt)
    (hovf : b.ovf = s.blk.ovf) (hovp : b.ovp = s.blk.ovp) (hr : b.rp ≠ 2#2 ∧ b.rp ≠ 3#2) : Exact (s.withBlk b) w := by
  obtain ⟨h2, h3⟩ := hr
  have hcount := hx.count
  constructor <;> simp_all [Block.elapsed]

/-- R100, R103: a tick adds one to the ticks the counters stand for, the wrap's request counting as one wrap period. -/
theorem Block.tick_elapsed {cw : CounterWidth} {b : Block} (hc : b.cnt.toNat < wrapPeriod cw)
    (hm : (b.tick cw).fLost = false) : (b.tick cw).elapsed cw = b.elapsed cw + 1 := by
  rcases b.tick_cases cw with ⟨hcnt, ht⟩ | ⟨hne, ht⟩ <;> rw [ht] at hm ⊢
  · have hovp : b.ovp = false := (Bool.or_eq_false_iff.1 hm).2
    have hmax := maxCount_succ cw
    simp only [Block.elapsed, ticks, hovp, BitVec.toNat_ofNat, if_true, Bool.false_eq_true, if_false]
    omega
  · obtain ⟨hnext, -⟩ := Block.cnt_add_one hc hne
    simp only [Block.elapsed, ticks, hnext]
    omega

/-- A tick keeps exact counts exact. -/
theorem Exact.tick {s : State} {w : Watch} (hx : Exact s w) (hc : s.blk.cnt.toNat < wrapPeriod s.params.width)
    (hm : (s.blk.tick s.params.width).fLost = false) :
    Exact (s.withBlk (s.blk.tick s.params.width)) { w with ticks := w.ticks + 1 } := by
  have hcount := Block.tick_elapsed hc hm
  rw [hx.count] at hcount
  have hpast : isReading s.blk.site = true → s.blk.rp = 3#2 → w.atRead ≤ w.ticks + 1 :=
    fun hs hr => Nat.le_succ_of_le (hx.past hs hr)
  rcases s.blk.tick_cases s.params.width with ⟨-, ht⟩ | ⟨-, ht⟩ <;> rw [ht] at hcount ⊢
  · exact ⟨hcount, hx.firstRead, hx.pair, hpast⟩
  · exact ⟨hcount, hx.firstRead, hx.pair, hpast⟩

/-- R102, R103: the handler moves one wrap period from the pending request to `OVF`. -/
theorem Block.takeOverflow_elapsed (cw : CounterWidth) {b : Block} (hovp : b.ovp = true) (hne : b.ovf ≠ 4294967295#32) :
    b.takeOverflow.ovf.toNat = b.ovf.toNat + 1 ∧ b.takeOverflow.elapsed cw = b.elapsed cw := by
  rcases b.takeOverflow_cases with ⟨h, -⟩ | ⟨-, ht⟩
  · exact absurd h hne
  have hnext : (b.ovf + 1#32).toNat = b.ovf.toNat + 1 := by bv_omega
  rw [ht]
  refine ⟨hnext, ?_⟩
  simp only [Block.elapsed, ticks, hnext, hovp, if_true, Bool.false_eq_true, if_false]
  ring

/-- The handler keeps exact counts exact: a pair that was read before it is no longer accepted (R107, R109). -/
theorem Exact.takeOverflow {s : State} {w : Watch} (hx : Exact s w) (hovp : s.blk.ovp = true)
    (hm : s.blk.takeOverflow.fOvfwrap = false) : Exact (s.withBlk s.blk.takeOverflow) w := by
  rcases s.blk.takeOverflow_cases with ⟨-, ht⟩ | ⟨hne, ht⟩
  · simp [ht] at hm
  obtain ⟨hovf, hcount⟩ := Block.takeOverflow_elapsed s.params.width hovp hne
  rw [hx.count] at hcount
  rw [ht] at hovf hcount ⊢
  refine ⟨hcount, fun hs hr => (hx.firstRead hs hr).trans (hovf ▸ Nat.le_succ _), fun hs hr ho => ?_, hx.past⟩
  have hfirst := hx.firstRead hs (.inr hr)
  have hmoved : s.blk.o1.toNat = s.blk.ovf.toNat + 1 := (congrArg BitVec.toNat ho).symm.trans hovf
  omega

/-- What a move is for the counts: a zeroing, step 1 of a paired read, step 2 of it, or a move that leaves the counters alone and
ends outside steps 2 and 3 (R105, R107). -/
theorem SeqMove.count_cases {p : Params} {echo : Bool} {b b' : Block} (h : SeqMove p echo b b') :
    (zeroSite b.site ∧ b'.cnt = 0#16 ∧ b'.ovf = 0#32 ∧ b'.ovp = false ∧ b'.rp = 1#2) ∨
      (isReading b.site = true ∧ b.rp = 1#2 ∧ b' = { b with o1 := b.ovf, rp := 2#2 }) ∨
      (isReading b.site = true ∧ b.rp = 2#2 ∧ b' = { b with c1 := b.cnt, rp := 3#2 }) ∨
      (¬zeroSite b.site ∧ ¬(isReading b.site = true ∧ b.rp = 2#2) ∧ b'.cnt = b.cnt ∧ b'.ovf = b.ovf ∧ b'.ovp = b.ovp ∧
        b'.rp ≠ 2#2 ∧ b'.rp ≠ 3#2) := by
  cases h with
  | readFirst hs hr => exact .inr (.inl ⟨hs, hr, rfl⟩)
  | readSecond hs hr => exact .inr (.inr (.inl ⟨hs, hr, rfl⟩))
  | readRetry hs hr => exact .inr (.inr (.inr ⟨not_zeroSite_of_reading hs, by simp [hr], rfl, rfl, rfl, by simp, by simp⟩))
  | delayZero hs | pulseZero hs | gapZero hs => left; simp [zeroSite, hs]
  | delayAgain hs hr =>
    right; right; right
    rcases hs with hs | hs | hs <;> simp [zeroSite, hs, hr.1]
  | _ => right; right; right; simp [zeroSite, isReading, *]

/-- A `SEQ` step keeps exact counts exact: no request is pending at step 2 of a paired read, so the pair read is the count (R104,
R109). -/
theorem Exact.seq {s : State} {w : Watch} {echo : Bool} {b : Block} (hx : Exact s w) (hl : Legal s.params s.blk)
    (he : s.nextEvent = .seq echo) (hen : s.blk.seqEnabled = true) (hm : SeqMove s.params echo s.blk b) :
    Exact (s.withBlk b) (w.after s) := by
  rcases hm.count_cases with ⟨hs, hcnt, hovf, hovp, hrp⟩ | ⟨hs, hr, rfl⟩ | ⟨hs, hr, rfl⟩ |
    ⟨hs, hr, hcnt, hovf, hovp, hrp⟩
  · rw [w.after_zeroes ((State.zeroes_seq he hen).2 hs)]
    exact .of_zeroed hcnt hovf hovp (by simp [hrp])
  · rw [w.after_seq he hen (not_zeroSite_of_reading hs), if_neg (by simp [hr])]
    exact ⟨hx.count, fun _ _ => le_rfl, by simp, by simp⟩
  · have hcount : ticks s.params.width s.blk.ovf s.blk.cnt = w.ticks := by
      simpa [Block.elapsed, hl.ovp_of_seqEnabled hen] using hx.count
    rw [w.after_seq he hen (not_zeroSite_of_reading hs), if_pos ⟨hs, hr⟩]
    exact ⟨hx.count, fun hs _ => hx.firstRead hs (.inl hr), fun _ _ ho => ho ▸ hcount, fun _ _ => le_rfl⟩
  · rw [w.after_seq he hen hs, if_neg hr]
    exact hx.of_outside hcnt hovf hovp hrp

/-! ### Every step keeps the counts exact -/

/-- The byte of a timing command is no CONFIGURE (R120). -/
theorem configureSucceeds_of_timingStarts {b : Block} {c : Byte} {i : Instr} {op : Op} {site : Site} {rp : BitVec 2}
    (hd : decode c = .command i) (h : (i, op, site, rp) ∈ timingStarts) : configureSucceeds b c = false := by
  cases i with
  | configure => simp [timingStarts] at h
  | rdtime | delay | measure | mspeed => simp [configureSucceeds, hd]

/-- No step but reset clears a count fault (R184). -/
theorem BlockStep.not_miscounted {s : State} {b : Block} (h : BlockStep s b) (hr : s.nextEvent ≠ .reset)
    (hm : b.miscounted = false) : s.blk.miscounted = false := by
  simp only [Block.miscounted, Bool.or_eq_false_iff] at hm ⊢
  cases h with
  | tickOff | ovhOff | seqOff | read | ignored | reject | config | begin => exact hm
  | tick => rcases s.blk.tick_cases s.params.width with ⟨-, ht⟩ | ⟨-, ht⟩ <;> simp_all
  | ovh => rcases s.blk.takeOverflow_cases with ⟨-, ht⟩ | ⟨-, ht⟩ <;> simp_all
  | seq _ _ hmove =>
    obtain ⟨-, -, -, -, -, -, -, -, hlost, hwrap⟩ := hmove.keeps
    rwa [hlost, hwrap] at hm
  | @operand off v =>
    obtain ⟨c, d, t, ho⟩ := s.blk.writeOperand_frame off v
    rwa [ho] at hm
  | reset he => exact absurd he hr

/-- Every change a step makes to the block keeps the counts exact for the onlooker who watched the step. -/
theorem BlockStep.countsExact {s : State} {b : Block} {w : Watch} (h : BlockStep s b) (hl : Legal s.params s.blk)
    (hx : CountsExact s w) : CountsExact (s.withBlk b) (w.after s) := by
  intro hm
  have hx (hr : s.nextEvent ≠ .reset) : Exact s w := hx (h.not_miscounted hr hm)
  obtain ⟨hlost, hwrap⟩ : b.fLost = false ∧ b.fOvfwrap = false := by simpa [Block.miscounted] using hm
  cases h with
  | tickOff he hen => rw [w.after_tickOff he hen]; exact hx (by simp [he])
  | tick he hen => rw [w.after_tick he hen]; exact (hx (by simp [he])).tick hl.cntRange hlost
  | ovhOff he => rw [w.after_ovh he]; exact hx (by simp [he])
  | ovh he hen =>
    rw [w.after_ovh he]
    exact (hx (by simp [he])).takeOverflow (s.blk.ovhEnabled_iff.1 hen).1 hwrap
  | seqOff he hen => rw [w.after_seqOff he hen]; exact hx (by simp [he])
  | seq he hen hmove => exact (hx (by simp [he])).seq hl he hen hmove
  | read he => rw [w.after_read he]; exact hx (by simp [he])
  | ignored he hi =>
    rw [w.after_write he (hi.imp_right fun hmis => .inl (by rintro rfl; cases hmis))]
    exact hx (by simp [he])
  | @operand off v he _ ho =>
    obtain ⟨c, d, t, hw⟩ := s.blk.writeOperand_frame off v
    obtain ⟨hcount, hfirst, hpair, hpast⟩ := hx (by simp [he])
    rw [w.after_write he (.inr (.inl ho)), hw]
    exact ⟨hcount, hfirst, hpair, hpast⟩
  | reject e he _ hn =>
    obtain ⟨hcount, hfirst, hpair, hpast⟩ := hx (by simp [he])
    rw [w.after_write he (.inr (.inr hn))]
    exact ⟨hcount, hfirst, hpair, hpast⟩
  | config he hb hd hp hc hz =>
    have hrp : s.blk.rp = 0#2 := hl.rp_of_idle hb
    rw [w.after_zeroes (by simp [State.zeroes, he, hb, configureSucceeds, hd, hp, hc, hz])]
    exact .of_zeroed rfl rfl rfl (by simp [Block.applyConfig, hrp])
  | begin he _ hd _ hi =>
    obtain ⟨-, -, -, -, -, hrp⟩ := timingStarts_start hi
    rw [w.after_write he (.inr (.inr (configureSucceeds_of_timingStarts hd hi)))]
    exact (hx (by simp [he])).of_outside rfl rfl rfl hrp
  | reset he =>
    rw [w.after_zeroes (by simp [State.zeroes, he])]
    exact .of_zeroed rfl rfl rfl (by decide)

/-- Settles O55, by cases on everything a step can do. -/
theorem everyStepKeepsTheCountsExact : Obligations.EveryStepKeepsTheCountsExact := by
  intro s t w hl hx h hm
  obtain ⟨hp, hb⟩ := step_block h
  exact .congr (s := s.withBlk t.blk) hp rfl (hb.countsExact hl hx hm)

/-- Settles O54: nothing has been counted and no paired read runs. -/
theorem resetCountsAreExact : Obligations.ResetCountsAreExact := fun _ =>
  Exact.of_zeroed (s := State.reset) (w := ⟨0, 0⟩) (b := Block.reset) rfl rfl rfl (by decide)

end Sys2Proof.Machine
end

