-- ==== Sys2Proof/Proofs/Memory.lean ====
section
/-!
PROOFS. The statements of spec/20_memory.md: what the host reads and writes at the register port, which steps change the
operands of a command, and which change `OVF`.
-/
namespace Sys2Proof.Machine

/-! ### Writes at the register port -/

/-- R63: a write while a command runs does nothing. -/
theorem hostWrite_busy {s : State} (off : Offset) (v : Word) (hb : s.blk.busy = true) : hostWrite off v s = .next s := by
  simp [hostWrite, hb]

/-- R65: a write at a misaligned offset does nothing. -/
theorem hostWrite_misaligned {off : Offset} (v : Word) (s : State) (ho : off.toNat % 4 ≠ 0) :
    hostWrite off v s = .next s := by
  simp [hostWrite, (misaligned_iff off).2 ho]

/-- R63, R81: a write of a command's byte to `CMD` is that command, also while another one runs (log 7). -/
theorem hostWrite_command {v : Word} {i : Instr} (s : State) (hd : decode (commandByte v) = .command i) :
    hostWrite 0x00#7 v s = exec i s := by
  rcases hostWrite_cases 0x00#7 v s with ⟨hb | hm, hw⟩ | ⟨-, ho, -⟩ | ⟨-, -, j, hj, hw⟩ | ⟨-, -, ⟨r, hr⟩, -⟩
  · rw [hw, exec_busy i hb]
  · cases hm
  · exact absurd rfl ho
  · rw [hd] at hj
    cases hj
    exact hw
  · rw [hd] at hr
    cases hr

/-- R63, R83: a write of an illegal byte to `CMD` while no command runs records the error. -/
theorem hostWrite_illegal {s : State} {v : Word} {r : DecodeError} (hb : s.blk.busy = false)
    (hd : decode (commandByte v) = .illegal r) :
    hostWrite 0x00#7 v s = .next (s.withBlk { s.blk with err := .illegalCmd }) := by
  rw [hostWrite, if_neg (by simp [hb]), if_neg (by decide), if_pos rfl, commandWrite, hd]
  exact congrArg _ (State.command_idle (·.reject .illegalCmd) hb)

/-- R63: a write while no command runs, at an aligned offset other than `CMD`, is the operand write. -/
theorem hostWrite_operand {s : State} {off : Offset} (v : Word) (hb : s.blk.busy = false) (ha : misaligned off = false)
    (ho : off ≠ 0x00#7) : hostWrite off v s = .next (s.withBlk (s.blk.writeOperand off v)) := by
  simp [hostWrite, hb, ha, ho]

/-- R63: an offset of no operand stores nothing. -/
theorem Block.writeOperand_of_not_mem (b : Block) {off : Offset} (v : Word) (ho : off ∉ [0x08#7, 0x0C#7, 0x10#7]) :
    b.writeOperand off v = b := by
  simp only [List.mem_cons, List.not_mem_nil, or_false, not_or] at ho
  simp [Block.writeOperand, ho]

/-- R63: a write at an offset that is not writable does nothing, aligned or not. -/
theorem hostWrite_of_not_mem {off : Offset} (v : Word) (s : State)
    (ho : off ∉ [0x00#7, 0x08#7, 0x0C#7, 0x10#7]) : hostWrite off v s = .next s := by
  obtain ⟨hcmd, hop⟩ := List.ne_and_not_mem_of_not_mem_cons ho
  rcases hostWrite_cases off v s with ⟨-, hw⟩ | ⟨-, -, hw⟩ | ⟨-, h, -⟩ | ⟨-, h, -⟩
  · exact hw
  · rw [hw, s.blk.writeOperand_of_not_mem v hop, State.withBlk_self]
  · exact absurd h hcmd
  · exact absurd h hcmd

/-- Settles O18, arm by arm. -/
theorem writeStoresOperandRunsCommandOrNothing : Obligations.WriteStoresOperandRunsCommandOrNothing := by
  intro s off v he
  rw [step_write he, ← s.advance_blk]
  generalize s.advance = u
  refine ⟨hostWrite_busy off v, fun hb => ⟨hostWrite_misaligned v u, ?command, ?clock, ?clockKept, ?duration, ?timeout,
    hostWrite_of_not_mem v u⟩⟩
  case command =>
    rintro rfl
    cases hd : decode (commandByte v) with
    | command i => exact hostWrite_command u hd
    | illegal r => exact hostWrite_illegal hb hd
  case clock =>
    rintro rfl hc
    rw [hostWrite_operand v hb (by decide) (by decide), Block.writeOperand, if_pos rfl, if_neg (by simp [hc])]
  case clockKept =>
    rintro rfl hc
    rw [hostWrite_operand v hb (by decide) (by decide), Block.writeOperand, if_pos rfl, if_pos hc, State.withBlk_self]
  case duration =>
    rintro rfl
    exact hostWrite_operand v hb (by decide) (by decide)
  case timeout =>
    rintro rfl
    exact hostWrite_operand v hb (by decide) (by decide)

/-- R63: the command byte as a number, `wdata[7:0]`. -/
theorem commandByte_eq_ofNat (v : Word) : commandByte v = BitVec.ofNat 8 (v.toNat % 256) := by
  apply BitVec.eq_of_toNat_eq
  simp [commandByte]

/-- Settles O12: the write is the command it decodes to, and a command's write while `BUSY = 1` does nothing. -/
theorem stepRunsTheDecodedCommand : Obligations.StepRunsTheDecodedCommand := by
  intro s v i he hd
  rw [← commandByte_eq_ofNat] at hd
  exact ⟨(step_write he).trans (hostWrite_command s.advance hd), exec_busy i⟩

/-! ### Reads at the register port -/

/-- R61: the low word of a register. -/
theorem extractLsb'_low_eq_ofNat {w : Nat} (x : BitVec w) : x.extractLsb' 0 32 = BitVec.ofNat 32 x.toNat := rfl

/-- R61: the bits from 32 up of a register. -/
theorem extractLsb'_high_eq_ofNat {w n : Nat} (x : BitVec w) :
    x.extractLsb' 32 n = BitVec.ofNat n (x.toNat / 4294967296) := by
  rw [BitVec.extractLsb', Nat.shiftRight_eq_div_pow]

/-- R61: the high word of a tick register holds its upper 16 bits. -/
theorem tickReg_high_eq_ofNat (x : TickReg) :
    (x.extractLsb' 32 16).setWidth 32 = BitVec.ofNat 32 (x.toNat / 4294967296) := by
  have hx := x.isLt
  apply BitVec.eq_of_toNat_eq
  rw [extractLsb'_high_eq_ofNat]
  simp only [BitVec.toNat_setWidth, BitVec.toNat_ofNat]
  omega

/-- R61, R65: an offset that is in no row of the register map, or in the write-only row, reads 0. -/
theorem regRead_of_not_mem (p : Params) (b : Block) {off : Offset}
    (ho : off ∉ [0x04#7, 0x08#7, 0x0C#7, 0x10#7, 0x18#7, 0x1C#7, 0x20#7, 0x24#7, 0x28#7, 0x2C#7, 0x30#7, 0x34#7, 0x38#7,
      0x3C#7, 0x40#7, 0x44#7, 0x48#7, 0x4C#7, 0x50#7, 0x54#7, 0x58#7]) : regRead p b off = 0#32 := by
  have hnone : registerAt p b off = none := by
    simp only [List.mem_cons, List.not_mem_nil, or_false, not_or] at ho
    simp [registerAt, ho]
  simp [regRead, hnone]

/-- R65: a misaligned offset reads 0. -/
theorem regRead_misaligned (p : Params) (b : Block) {off : Offset} (ho : off.toNat % 4 ≠ 0) : regRead p b off = 0#32 := by
  simp [regRead, (misaligned_iff off).2 ho]

/-- Settles O13: each row of the map by evaluation of its offset, its words then as numbers. -/
theorem registerMapContents : Obligations.RegisterMapContents := fun p b =>
  ⟨rfl, rfl, rfl, rfl, rfl,
    extractLsb'_low_eq_ofNat b.time, extractLsb'_high_eq_ofNat b.time,
    extractLsb'_low_eq_ofNat b.dist, extractLsb'_high_eq_ofNat b.dist,
    extractLsb'_low_eq_ofNat b.speed, extractLsb'_high_eq_ofNat b.speed,
    extractLsb'_low_eq_ofNat b.dist1, extractLsb'_high_eq_ofNat b.dist1,
    extractLsb'_low_eq_ofNat b.startT, tickReg_high_eq_ofNat b.startT,
    extractLsb'_low_eq_ofNat b.endT, tickReg_high_eq_ofNat b.endT,
    (BitVec.ofNat_toNat 32 b.cnt).symm, rfl, rfl, rfl, rfl,
    fun _ ho => regRead_of_not_mem p b (List.not_mem_of_not_mem_cons ho)⟩

/-- Settles O14: consuming the input leaves the block and the parameters that the read looks at. -/
theorem readReturnsTheWordAndChangesNoState : Obligations.ReadReturnsTheWordAndChangesNoState := by
  refine ⟨fun s off he => ?_, fun p b off => regRead_misaligned p b⟩
  rw [← s.advance_params, ← s.advance_blk]
  exact step_read he

/-! ### What changes an operand, and what changes `OVF` -/

/-- R71: an operand write stores `CLKHZ` before CONFIGURE only, and `PS` never. -/
theorem Block.writeOperand_keeps_clock (b : Block) (off : Offset) (v : Word) :
    (b.cfgd = true → (b.writeOperand off v).clkhz = b.clkhz) ∧ (b.writeOperand off v).ps = b.ps := by
  rcases b.writeOperand_cases off v with h | ⟨hc, h⟩ | h | h <;> simp [h]
  simp [hc]

/-- R100: a tick leaves `OVF` and the operands alone. -/
theorem Block.tick_keeps (w : CounterWidth) (b : Block) :
    (b.tick w).ovf = b.ovf ∧ (b.tick w).duration = b.duration ∧ (b.tick w).timeout = b.timeout ∧
      (b.tick w).clkhz = b.clkhz ∧ (b.tick w).ps = b.ps := by
  rcases b.tick_cases w with ⟨-, ht⟩ | ⟨-, ht⟩ <;> simp [ht]

/-- R102: the handler leaves the operands alone. -/
theorem Block.takeOverflow_keeps (b : Block) :
    b.takeOverflow.duration = b.duration ∧ b.takeOverflow.timeout = b.timeout ∧ b.takeOverflow.clkhz = b.clkhz ∧
      b.takeOverflow.ps = b.ps := by
  rcases b.takeOverflow_cases with ⟨-, ht⟩ | ⟨-, ht⟩ <;> simp [ht]

/-- Settles O20: a host write stores an operand only while no command runs, `CLKHZ` and `PS` only before CONFIGURE, and no agent
but the host stores any. -/
theorem operandsCannotChangeWhileACommandRuns : Obligations.OperandsCannotChangeWhileACommandRuns := by
  intro s t hr h
  obtain ⟨-, hb⟩ := step_block h
  generalize t.blk = b at hb
  cases hb with
  | tickOff | ovhOff | seqOff | read | ignored | reject | begin => simp
  | tick => simp [Block.tick_keeps]
  | ovh => simp [Block.takeOverflow_keeps]
  | seq _ _ hm =>
    obtain ⟨hclk, hps, -, -, hdur, hout, -⟩ := hm.keeps
    exact ⟨fun _ => ⟨hdur, hout⟩, fun _ => ⟨hclk, hps⟩⟩
  | @operand off v _ hidle =>
    obtain ⟨hclk, hps⟩ := s.blk.writeOperand_keeps_clock off v
    exact ⟨by simp [hidle], fun hc => ⟨hclk hc, hps⟩⟩
  | config _ hidle _ _ hc => exact ⟨by simp [hidle], by simp [hc]⟩
  | reset he => exact absurd he hr

/-- Settles O29: the handler, the three zeroing sites, a successful CONFIGURE and reset write `OVF`, and nothing else does. -/
theorem onlyHandlerAndZeroModifyOvf : Obligations.OnlyHandlerAndZeroModifyOvf := by
  intro s t h hne
  obtain ⟨-, hb⟩ := step_block h
  generalize t.blk = b at hb hne
  cases hb with
  | tickOff | ovhOff | seqOff | read | ignored | reject | begin => exact absurd rfl hne
  | tick => exact absurd (s.blk.tick_keeps s.params.width).1 hne
  | ovh he hen => exact .inl ⟨he, s.blk.ovhEnabled_iff.1 hen⟩
  | seq he hen hm =>
    rcases hm.counters with ⟨-, hovf, -⟩ | ⟨hs, -, hovf, -⟩
    · exact absurd hovf hne
    · exact .inr ⟨(State.zeroes_seq he hen).2 hs, hovf⟩
  | @operand off v =>
    obtain ⟨c, d, u, ho⟩ := s.blk.writeOperand_frame off v
    exact absurd (by rw [ho]) hne
  | config he hidle hd hp hc hz =>
    exact .inr ⟨by simp [State.zeroes, he, hidle, configureSucceeds, hd, hp, hc, hz], rfl⟩
  | reset he => exact .inr ⟨by simp [State.zeroes, he], rfl⟩

end Sys2Proof.Machine
end

