-- ==== Sys2Proof/Proofs/Encoding.lean ====
section
/-!
PROOFS. The statements of spec/30_encoding.md: the command byte and its decoder, the illegal bytes, the prescaler codes, and
the packed views `STATUS` and `PHASE`.
-/
namespace Sys2Proof

/-! ### The command byte and its fields -/

/-- R80: a byte is its bit `b[7]` and its fields `ps` and `opc`, side by side. -/
theorem append_eq_byte_iff (t : BitVec 1) (ps : BitVec 3) (opc : BitVec 4) (b : Byte) :
    (t ++ ps) ++ opc = b ↔ BitVec.ofBool (topBit b) = t ∧ selectField b = ps ∧ opcodeField b = opc := by
  constructor
  · rintro rfl
    revert t ps opc
    decide +kernel
  · rintro ⟨rfl, rfl, rfl⟩
    revert b
    decide +kernel

/-- R80: a byte is the byte of a command exactly when `b[7]` is 0 and its fields are the command's. -/
theorem encode_eq_iff (i : Instr) (b : Byte) :
    encode i = b ↔ topBit b = false ∧ selectField b = i.select ∧ opcodeField b = i.opcode := by
  rw [encode, append_eq_byte_iff]
  cases topBit b <;> simp

/-- R80: no command has the opcode 0. -/
theorem Instr.opcode_ne_zero (i : Instr) : i.opcode ≠ 0#4 := by cases i <;> simp [Instr.opcode]

/-- R80: the opcode 1 is that of CONFIGURE with any select. -/
theorem Instr.opcode_eq_one_iff (i : Instr) : i.opcode = 1#4 ↔ i = .configure i.select := by
  cases i <;> simp [Instr.opcode, Instr.select]

/-- R80: every command but CONFIGURE carries the select 0. -/
theorem Instr.select_eq_zero {i : Instr} (h : i.opcode ≠ 1#4) : i.select = 0#3 := by
  cases i with
  | configure ps => exact absurd rfl h
  | rdtime | delay | measure | mspeed => rfl

/-- R80: away from the opcode 1 an opcode names the command that has it. -/
theorem plainCommand_eq_some_iff {opc : BitVec 4} (h : opc ≠ 1#4) (i : Instr) :
    plainCommand opc = some i ↔ opc = i.opcode := by
  cases i with
  | configure ps => unfold plainCommand; split_ifs <;> simp_all [Instr.opcode]
  | rdtime | delay | measure | mspeed => revert opc; decide

/-- R80, R81: a byte decodes to the command that its fields name, and to no other. -/
theorem decode_eq_command_iff (b : Byte) (i : Instr) :
    decode b = .command i ↔ topBit b = false ∧ selectField b = i.select ∧ opcodeField b = i.opcode := by
  unfold decode
  split
  next ht => simp [ht]
  next ht =>
  split
  next h0 => simp [h0, i.opcode_ne_zero.symm]
  next h0 =>
  split
  next h1 =>
    rw [h1, eq_comm (a := 1#4), i.opcode_eq_one_iff]
    cases i <;> simp [ht, Instr.select]
  next h1 =>
  have hplain := plainCommand_eq_some_iff h1
  split
  next hnone => simp [← hplain, hnone]
  next j hj =>
    have hj0 : j.select = 0#3 := Instr.select_eq_zero ((hplain j).1 hj ▸ h1)
    have hfields : selectField b = i.select ∧ opcodeField b = i.opcode ↔ selectField b = 0#3 ∧ j = i := by
      rw [← hplain i, hj, Option.some.injEq]
      exact and_congr_left fun hji => by rw [← hji, hj0]
    rw [hfields]
    split
    next hs => simp [ht, hs]
    next hs => simp [hs]

/-- Settles O6: both sides say that `b[7]` is 0 and that the fields are the command's. -/
theorem decodeAnswersExactlyTheEncodedCommand : Obligations.DecodeAnswersExactlyTheEncodedCommand := fun b i =>
  (decode_eq_command_iff b i).trans (encode_eq_iff i b).symm

/-- R80, R81: the byte of a command decodes to it. -/
theorem decode_encode (i : Instr) : decode (encode i) = .command i :=
  (decodeAnswersExactlyTheEncodedCommand _ i).2 rfl

/-- R80: the mask and match of CONFIGURE are about `b[7]` and `opc`. -/
theorem and_configureMask_iff (b : Byte) : b &&& 0x8F#8 = 0x01#8 ↔ topBit b = false ∧ opcodeField b = 1#4 := by
  revert b
  decide +kernel

/-- R80: below 0x80 the field `ps` is the byte divided by 16. -/
theorem selectField_toNat {b : Byte} (h : topBit b = false) : (selectField b).toNat = b.toNat / 16 := by
  revert b
  decide +kernel

/-- R80: a byte selects CONFIGURE by its mask and match, and the select is `b[6:4]`. -/
theorem decode_eq_configure_iff (b : Byte) (ps : BitVec 3) :
    decode b = .command (.configure ps) ↔ b &&& 0x8F#8 = 0x01#8 ∧ ps.toNat = b.toNat / 16 := by
  rw [decode_eq_command_iff, and_configureMask_iff, and_assoc]
  refine and_congr_right fun ht => ?_
  rw [← selectField_toNat ht, BitVec.toNat_inj, and_comm, eq_comm (a := ps)]
  rfl

/-- R80: the mask 0xFF keeps all eight bits, so such a row matches the byte of its command and no other. -/
theorem decode_eq_command_iff_and_allOnes (b : Byte) (i : Instr) :
    decode b = .command i ↔ b &&& 0xFF#8 = encode i := by
  have hmask : b &&& 0xFF#8 = b := BitVec.and_allOnes
  rw [hmask, eq_comm (a := b)]
  exact decodeAnswersExactlyTheEncodedCommand b i

/-- Settles O5, row by row of the table. -/
theorem byteSelectsCommandByMaskAndMatch : Obligations.ByteSelectsCommandByMaskAndMatch := fun b =>
  ⟨decode_eq_configure_iff b, decode_eq_command_iff_and_allOnes b .rdtime, decode_eq_command_iff_and_allOnes b .delay,
    decode_eq_command_iff_and_allOnes b .measure, decode_eq_command_iff_and_allOnes b .mspeed⟩

/-! ### The table of commands and the opcode map -/

/-- Every command's byte is a byte of the table of R80. -/
theorem legalByte_encode (i : Instr) : legalByte (encode i) = true := by
  cases i with
  | configure ps =>
    obtain ⟨-, -, hlegal, -⟩ := Laws.CommandByte.configure ps
    exact hlegal
  | rdtime | delay | measure | mspeed => rfl

/-- R80, R83: a byte is selected by some row of the table exactly when it decodes to a command. -/
theorem legalByte_iff (b : Byte) : legalByte b = true ↔ ∃ i, decode b = .command i := by
  constructor
  · intro h
    simp only [legalByte, commandTable, CommandRow.selects, List.any_cons, List.any_nil, Bool.or_false, Bool.or_eq_true,
      beq_iff_eq] at h
    rcases h with h | h | h | h | h
    · obtain ⟨ht, hopc⟩ := (and_configureMask_iff b).1 h
      exact ⟨.configure (selectField b), (decode_eq_command_iff b _).2 ⟨ht, rfl, hopc⟩⟩
    · exact ⟨.rdtime, (decode_eq_command_iff_and_allOnes b _).2 h⟩
    · exact ⟨.delay, (decode_eq_command_iff_and_allOnes b _).2 h⟩
    · exact ⟨.measure, (decode_eq_command_iff_and_allOnes b _).2 h⟩
    · exact ⟨.mspeed, (decode_eq_command_iff_and_allOnes b _).2 h⟩
  · rintro ⟨i, hi⟩
    exact (decodeAnswersExactlyTheEncodedCommand b i).1 hi ▸ legalByte_encode i

/-- R83: a byte that no row of the table selects decodes to a named reason. -/
theorem decode_of_not_legalByte {b : Byte} (h : legalByte b = false) : ∃ r, decode b = .illegal r := by
  cases hd : decode b with
  | command i => exact absurd ((legalByte_iff b).2 ⟨i, hd⟩) (Bool.eq_false_iff.1 h)
  | illegal r => exact ⟨r, rfl⟩

/-- R82: the bytes of the commands, CONFIGURE with each of its eight selects first. -/
theorem mem_commandBytes_iff (b : Byte) :
    b ∈ [0x01#8, 0x11#8, 0x21#8, 0x31#8, 0x41#8, 0x51#8, 0x61#8, 0x71#8, 0x02#8, 0x03#8, 0x04#8, 0x05#8] ↔
      ∃ i, decode b = .command i := by
  rw [← legalByte_iff]
  revert b
  decide +kernel

/-- Settles O7: the twelve bytes are those of the commands, and the others are counted. -/
theorem twelveLegalBytesAnd244Illegal : Obligations.TwelveLegalBytesAnd244Illegal := by
  refine ⟨fun b => ?_, by decide +kernel⟩
  have hmem := mem_commandBytes_iff b
  rw [← List.contains_iff_mem] at hmem
  cases hd : decode b with
  | command i => exact (hmem.2 ⟨i, hd⟩).symm
  | illegal r => exact (Bool.eq_false_iff.2 fun hc => by simpa [hd] using hmem.1 hc).symm

/-- Settles O8: each command's byte is its encoding, and the four kinds of illegal byte are named. -/
theorem specBytesDecode : Obligations.SpecBytesDecode :=
  ⟨decode_encode (.configure 2#3), decode_encode (.configure 7#3), decode_encode .rdtime, decode_encode .delay,
    decode_encode .measure, decode_encode .mspeed, rfl, rfl, rfl, rfl⟩

end Sys2Proof

namespace Sys2Proof.Machine

/-! ### A write of an illegal byte -/

/-- Settles O9: an illegal byte decodes to a reason, and the write of such a byte records the error alone. -/
theorem illegalCommandWritesErrOnly : Obligations.IllegalCommandWritesErrOnly := by
  refine ⟨fun s v he hb hl => ?_, commandByte_eq_ofNat⟩
  obtain ⟨r, hr⟩ := decode_of_not_legalByte hl
  rw [← s.advance_blk] at hb ⊢
  exact (step_write he).trans (hostWrite_illegal hb hr)

/-! ### The prescaler codes, `STATUS` and `PHASE` -/

/-- Settles O10: the table row by row; a select that names a prescaler is its code. -/
theorem selectCodesNameTheDivisors : Obligations.SelectCodesNameTheDivisors :=
  ⟨⟨rfl, rfl, rfl, rfl, rfl⟩, rfl, rfl, rfl, rfl, fun _ _ h => (prescalerOf_some h).2⟩

/-- R9, R86: a field reads back at its own bits. -/
theorem fieldAt_extract_same {w lo : Nat} (x : BitVec w) (h : lo + w ≤ 32) : (fieldAt lo x).extractLsb' lo w = x := by
  refine BitVec.eq_of_getLsbD_eq fun i hi => ?_
  have hin : lo + i < 32 ∧ lo ≤ lo + i ∧ lo + i - lo < w := by omega
  rw [BitVec.getLsbD_extractLsb', fieldAt_getLsbD, decide_eq_true hi, decide_eq_true hin, Nat.add_sub_cancel_left]
  rfl

/-- R9, R86: a field is 0 at bits that are not its own. -/
theorem fieldAt_extract_disjoint {w lo lo' w' : Nat} (x : BitVec w) (h : lo + w ≤ lo' ∨ lo' + w' ≤ lo) :
    (fieldAt lo x).extractLsb' lo' w' = 0#w' := by
  refine BitVec.eq_of_getLsbD_eq fun i hi => ?_
  have hout : ¬(lo' + i < 32 ∧ lo ≤ lo' + i ∧ lo' + i - lo < w) := by omega
  rw [BitVec.getLsbD_extractLsb', fieldAt_getLsbD, decide_eq_false hout, BitVec.getLsbD_zero]
  simp

/-- R86: the bits of `STATUS`, each that of the one flag that stands there, or 0. -/
theorem status_bits (b : Block) :
    (status b).getLsbD 0 = b.busy ∧ (status b).getLsbD 1 = b.cfgd ∧ (status b).getLsbD 2 = b.oie ∧
      (status b).getLsbD 3 = b.ovp ∧ (status b).getLsbD 7 = b.trig ∧ (status b).getLsbD 11 = b.sample ∧
      (status b).getLsbD 14 = b.tok ∧ (status b).getLsbD 15 = false ∧ (status b).getLsbD 19 = false ∧
      (status b).getLsbD 20 = b.fLost ∧ (status b).getLsbD 21 = b.fOvfwrap ∧ (status b).getLsbD 22 = b.fRange := by
  simp only [status, BitVec.getLsbD_or, flagAt_getLsbD, fieldAt_getLsbD]
  simp

/-- R86: the fields of `STATUS` of more than one bit, which no other field overlaps, and the reserved bits 31 to 26. -/
theorem status_fields (b : Block) :
    (status b).extractLsb' 4 3 = phase b.site ∧ (status b).extractLsb' 8 3 = opCode b.op ∧
      (status b).extractLsb' 12 2 = resCode b.res ∧ (status b).extractLsb' 16 3 = errCode b.err ∧
      (status b).extractLsb' 23 3 = prescalerCode b.ps ∧ (status b).extractLsb' 26 6 = 0#6 := by
  simp [status, flagAt, BitVec.extractLsb'_or, fieldAt_extract_same, fieldAt_extract_disjoint]

/-- Settles O15: the bits and the fields of `STATUS` in their order, and the codes as they are listed. -/
theorem statusLayout : Obligations.StatusLayout := by
  refine ⟨fun b => ?_, rfl, rfl, rfl, rfl, rfl⟩
  obtain ⟨busy, cfgd, oie, ovp, trig, sample, tok, bit15, bit19, lost, ovfwrap, range⟩ := status_bits b
  obtain ⟨phase, op, res, err, ps, top⟩ := status_fields b
  exact ⟨busy, cfgd, oie, ovp, phase, trig, op, sample, res, tok, bit15, err, bit19, lost, ovfwrap, range, ps, top⟩

/-- Settles O17: `phase` at each of the sites listed. -/
theorem phaseOfEachSite : Obligations.PhaseOfEachSite := by
  unfold Obligations.PhaseOfEachSite
  decide

end Sys2Proof.Machine
end

/-!
PROOFS. The statements of spec/40_timer_ops.md: the acceptance of the commands, the counter and its interrupt, the
conversions, the paired read and its exactness, RDTIME and DELAY, and whole commands run without interruption.
-/
namespace Sys2Proof.Machine

/-! ### The acceptance of CONFIGURE -/

/-- R120: CONFIGURE written while no command runs does its work on the block. -/
theorem exec_configure_idle {s : State} (ps : BitVec 3) (hb : s.blk.busy = false) :
    exec (.configure ps) s = .next (s.withBlk (s.blk.configure ps)) :=
  congrArg _ (State.command_idle (·.configure ps) hb)

/-- R85: the selects that name a prescaler are 1 to 5. -/
theorem prescalerOf_eq_none_iff (ps : BitVec 3) : prescalerOf ps = none ↔ ps ∉ [1#3, 2#3, 3#3, 4#3, 5#3] := by
  revert ps
  decide

/-- R85: a select from 1 to 5 is the code of the prescaler it names. -/
theorem prescalerOf_of_mem {ps : BitVec 3} (h : ps ∈ [1#3, 2#3, 3#3, 4#3, 5#3]) :
    ∃ p, prescalerOf ps = some p ∧ prescalerCode p = ps := by
  cases hp : prescalerOf ps with
  | none => exact absurd h ((prescalerOf_eq_none_iff ps).1 hp)
  | some p => exact ⟨p, rfl, (prescalerOf_some hp).2⟩

/-- Settles O21, check by check in their order. -/
theorem configureRejectsInOrderOrConfigures : Obligations.ConfigureRejectsInOrderOrConfigures := by
  intro ps s hb
  rw [exec_configure_idle ps hb, Block.configure]
  refine ⟨fun hc => ?_, fun hc hps => ?_, fun hc hps hz => ?_, fun hc hps hz => ?_⟩
  · rw [if_pos hc]
    rfl
  · rw [if_neg (by simp [hc]), (prescalerOf_eq_none_iff ps).2 hps]
    rfl
  · obtain ⟨p, hp, -⟩ := prescalerOf_of_mem hps
    rw [if_neg (by simp [hc]), hp]
    exact congrArg (fun b => Host.Outcome.next (s.withBlk b)) (if_pos hz)
  · obtain ⟨p, hp, hcode⟩ := prescalerOf_of_mem hps
    rw [if_neg (by simp [hc]), hp]
    exact ⟨p, hcode, congrArg (fun b => Host.Outcome.next (s.withBlk b)) (if_neg hz)⟩

/-! ### The acceptance of the timing commands -/

/-- R81, R121: a timing command written while no command runs is `Start` with its own arguments. -/
theorem exec_timing_idle {s : State} {i : Instr} {op : Op} {site : Site} {rp : BitVec 2} (hb : s.blk.busy = false)
    (h : (i, op, site, rp) ∈ timingStarts) : exec i s = .next (s.withBlk (s.blk.startCommand op site rp)) := by
  rw [← State.command_idle (·.startCommand op site rp) hb]
  simp only [timingStarts, List.mem_cons, Prod.mk.injEq, List.not_mem_nil, or_false] at h
  rcases h with ⟨rfl, rfl, rfl, rfl⟩ | ⟨rfl, rfl, rfl, rfl⟩ | ⟨rfl, rfl, rfl, rfl⟩ | ⟨rfl, rfl, rfl, rfl⟩ <;> rfl

/-- R121: in a configured block that runs no command a timing command is accepted. -/
theorem exec_timing_accepted {s : State} {i : Instr} {op : Op} {site : Site} {rp : BitVec 2} (hb : s.blk.busy = false)
    (hc : s.blk.cfgd = true) (h : (i, op, site, rp) ∈ timingStarts) :
    exec i s = .next (s.withBlk (s.blk.begin op site rp)) := by
  rw [exec_timing_idle hb h, Block.startCommand, if_pos hc]

/-- Settles O22: the four commands of the statement are those of `timingStarts`. -/
theorem timingCommandsStartOrAreRefused : Obligations.TimingCommandsStartOrAreRefused := by
  rintro s hb ⟨i, op, site, rp⟩ hmem
  refine ⟨fun hc => ?_, fun hc => exec_timing_accepted hb hc hmem⟩
  rw [exec_timing_idle hb hmem, Block.startCommand, if_neg (by simp [hc])]
  rfl

/-! ### The frames of the commands -/

/-- R61: no readable word but `STATUS`, `CNTR` and `OVFR` shows the Timer's control bits, the counters, `OP` or `ERR`. -/
theorem regRead_timer_frame (p : Params) (b : Block) {off : Offset} (ho : off ∉ [0x04#7, 0x48#7, 0x4C#7])
    (ps : Prescaler) (cnt : BitVec 16) (ovf : Word) (ovp oie cfgd : Bool) (op : Op) (err : Err) :
    regRead p { b with ps := ps, cnt := cnt, ovf := ovf, ovp := ovp, oie := oie, cfgd := cfgd, op := op, err := err } off =
      regRead p b off := by
  simp only [List.mem_cons, List.not_mem_nil, or_false, not_or] at ho
  simp [regRead, registerAt, seqst, ho]

/-- R61: no readable word but `STATUS` and `SEQST` shows what the acceptance of a command writes. -/
theorem regRead_start_frame (p : Params) (b : Block) {off : Offset} (ho : off ∉ [0x04#7, 0x58#7])
    (err : Err) (busy : Bool) (op : Op) (sample : Bool) (res : Res) (site : Site) (rp : BitVec 2) :
    regRead p { b with err := err, busy := busy, op := op, sample := sample, res := res, site := site, rp := rp } off =
      regRead p b off := by
  simp only [List.mem_cons, List.not_mem_nil, or_false, not_or] at ho
  simp [regRead, registerAt, ho]

/-- R120: what CONFIGURE can write, whether it is ignored, rejected or successful. -/
theorem exec_configure_frame {ps : BitVec 3} {s t : State} (h : exec (.configure ps) s = .next t) :
    ∃ q cnt ovf ovp oie cfgd op err, t = s.withBlk { s.blk with
      ps := q, cnt := cnt, ovf := ovf, ovp := ovp, oie := oie, cfgd := cfgd, op := op, err := err } := by
  rcases exec_cases (.configure ps) s with
    ⟨-, hx⟩ | ⟨-, ⟨e, hx⟩ | ⟨_, q, -, -, -, -, hx⟩ | ⟨-, op, site, rp, hi, -⟩⟩
  case inr.inr.inr => simp [timingStarts] at hi
  all_goals
    rw [hx] at h
    cases h
    exact ⟨_, _, _, _, _, _, _, _, rfl⟩

/-- Settles O23: the frame, and the readable words that it leaves alone. -/
theorem configureFrame : Obligations.ConfigureFrame := by
  intro ps s t h
  obtain ⟨q, cnt, ovf, ovp, oie, cfgd, op, err, rfl⟩ := exec_configure_frame h
  exact ⟨rfl, fun off ho => regRead_timer_frame _ _ ho q cnt ovf ovp oie cfgd op err⟩

/-- R121: what a timing command can write at its acceptance, whether it is ignored, refused or accepted. -/
theorem exec_timing_frame {i : Instr} {s t : State} (hi : ∀ ps, i ≠ .configure ps) (h : exec i s = .next t) :
    ∃ err busy op sample res site rp, t = s.withBlk { s.blk with
      err := err, busy := busy, op := op, sample := sample, res := res, site := site, rp := rp } := by
  rcases exec_cases i s with ⟨-, hx⟩ | ⟨-, ⟨e, hx⟩ | ⟨ps, q, hps, -⟩ | ⟨-, op, site, rp, -, hx⟩⟩
  case inr.inr.inl => exact absurd hps (hi ps)
  all_goals
    rw [hx] at h
    cases h
    exact ⟨_, _, _, _, _, _, _, rfl⟩

/-- Settles O24: the frame, and the readable words that it leaves alone. -/
theorem timingCommandFrame : Obligations.TimingCommandFrame := by
  intro i s t hmem h
  obtain ⟨err, busy, op, sample, res, site, rp, rfl⟩ :=
    exec_timing_frame (fun ps hi => by simp [hi] at hmem) h
  exact ⟨rfl, fun off ho => regRead_start_frame _ _ ho err busy op sample res site rp⟩

/-! ### The counter and the overflow interrupt -/

/-- R85, R100: the clock runs exactly while `PS` is 1 to 5. -/
theorem Block.tickEnabled_iff (b : Block) :
    b.tickEnabled = true ↔ prescalerCode b.ps ∈ [1#3, 2#3, 3#3, 4#3, 5#3] := by
  unfold Block.tickEnabled
  cases b.ps <;> decide

/-- R100: the turn of a running clock is a tick. -/
theorem step_tick_enabled {s : State} (he : s.nextEvent = .tick) (hen : s.blk.tickEnabled = true) :
    step s = .next (s.advance.withBlk (s.blk.tick s.params.width)) := by
  simp [step_tick he, tickStep, hen]

/-- R102, R188: the turn of the enabled handler takes the interrupt, and the return from it restores nothing. -/
theorem step_ovh_enabled {s : State} (he : s.nextEvent = .ovh) (hen : s.blk.ovhEnabled = true) :
    step s = .next (s.advance.withBlk s.blk.takeOverflow) := by
  simp [step_ovh he, ovhStep, hen, Block.returnFromOverflow]

/-- Settles O26: the clock runs, and the tick wraps at `MAXC` and counts below it. -/
theorem tickCountsWrapsAndRaisesTheRequest : Obligations.TickCountsWrapsAndRaisesTheRequest := by
  refine ⟨Block.tickEnabled_iff, fun s he hps => ?_⟩
  rw [step_tick_enabled he (s.blk.tickEnabled_iff.2 hps), ← maxCount_ite]
  rcases s.blk.tick_cases s.params.width with ⟨hmax, ht⟩ | ⟨hmax, ht⟩ <;> rw [ht]
  · refine ⟨fun _ => ⟨fun hp => ?_, fun hp => ?_⟩, fun hne => absurd hmax hne⟩
    · rw [hp, Bool.or_true]
    · rw [hp, Bool.or_false]
  · exact ⟨fun h => absurd h hmax, fun _ => rfl⟩

/-- Settles O27: the handler is enabled, and `OVF` wraps at its largest value and counts below it. -/
theorem overflowHandlerIncrementsOnce : Obligations.OverflowHandlerIncrementsOnce := by
  refine ⟨Block.ovhEnabled_iff, fun s he hp hi => ?_⟩
  rw [step_ovh_enabled he (s.blk.ovhEnabled_iff.2 ⟨hp, hi⟩)]
  have hlast : s.blk.ovf = 4294967295#32 ↔ s.blk.ovf.toNat = 4294967295 := BitVec.toNat_inj.symm
  rcases s.blk.takeOverflow_cases with ⟨hmax, ht⟩ | ⟨hmax, ht⟩ <;> rw [ht]
  · exact ⟨fun _ => rfl, fun hne => absurd (hlast.1 hmax) hne⟩
  · exact ⟨fun h => absurd (hlast.2 h) hmax, fun _ => rfl⟩

/-- Settles O28: each agent's step looks at its own enable first. -/
theorem disabledAgentsChangeNothing : Obligations.DisabledAgentsChangeNothing := by
  refine fun s => ⟨fun echo he hoff => ?_, fun he hoff => ?_, fun he hoff => ?_⟩
  · have hen : s.blk.seqEnabled = false := by
      rcases hoff with hb | ⟨hp, hi⟩ <;> simp [Block.seqEnabled, *]
    simp [step_seq he, sequencerStep, hen]
  · have hen : s.blk.ovhEnabled = false := by
      rcases hoff with hp | hi <;> simp [Block.ovhEnabled, *]
    simp [step_ovh he, ovhStep, hen]
  · have hen : s.blk.tickEnabled = false := by
      rw [Bool.eq_false_iff, ne_eq, Block.tickEnabled_iff, hoff]
      decide
    simp [step_tick he, tickStep, hen]

/-! ### Conversions -/

/-- Settles O31: each example is evaluated. -/
theorem conversionExamplesOfTheSpec : Obligations.ConversionExamplesOfTheSpec := by
  unfold Obligations.ConversionExamplesOfTheSpec
  decide

/-- R110: `TimeUs` of a tick count is a division of natural numbers. -/
theorem timeUs_eq_natCast (d clk t : Nat) : timeUs d clk t = ((t * d * 1000000 / clk : Nat) : Int) := by
  rw [timeUs, floorDiv]
  push_cast
  rfl

/-- R10: a natural number fits 64 bits unsigned when it is below `2^64`. -/
theorem fitsU64_natCast (n : Nat) : fitsU64 (n : Int) = decide (n < 2 ^ 64) := by
  have hlt : (n : Int) < 18446744073709551616 ↔ n < 2 ^ 64 := by omega
  simp [fitsU64, hlt]

/-- R12: `Reached` of a tick count compares natural numbers. -/
theorem reached_natCast_iff (d clk t us : Nat) : reached d clk t us = true ↔ us * clk ≤ t * d * 1000000 := by
  rw [reached, decide_eq_true_iff, ge_iff_le]
  exact_mod_cast Iff.rfl

/-- Settles O32: `2^48` ticks of 1024 clocks at 16384 hertz are fewer than `2^64` microseconds. -/
theorem timeFitsForClockFrom16384 : Obligations.TimeFitsForClockFrom16384 := by
  intro o c p d clk hd hclk
  have hticks := ticks_lt .w16 o c
  have hlt : ticks .w16 o c * d * 1000000 / clk.toNat < 2 ^ 64 := by
    refine Nat.div_lt_of_lt_mul ?_
    rcases divisor_cases hd with rfl | rfl | rfl | rfl | rfl <;> omega
  rw [timeUs_eq_natCast]
  refine ⟨Int.natCast_nonneg _, by omega, ?_⟩
  rw [fitsU64_natCast, decide_eq_true hlt]

/-! ### The paired read -/

/-- R107, step 1. -/
theorem readPair_first {w : CounterWidth} {b : Block} (exit : Nat → Except Refusal Block) (hr : b.rp = 1#2) :
    readPair w b exit = .ok { b with o1 := b.ovf, rp := 2#2 } := by
  simp [readPair, hr]

/-- R107, step 2. -/
theorem readPair_second {w : CounterWidth} {b : Block} (exit : Nat → Except Refusal Block) (hr : b.rp = 2#2) :
    readPair w b exit = .ok { b with c1 := b.cnt, rp := 3#2 } := by
  simp [readPair, hr]

/-- R107, step 3, `OVF` having moved. -/
theorem readPair_retry {w : CounterWidth} {b : Block} (exit : Nat → Except Refusal Block) (hr : b.rp = 3#2)
    (ho : b.ovf ≠ b.o1) : readPair w b exit = .ok { b with rp := 1#2 } := by
  simp [readPair, hr, ho]

/-- `Exit_SITE(T)` of the site at which the block stands; the sites at which no paired read runs have none (R88, R107). -/
def siteExit (p : Params) (b : Block) : Nat → Except Refusal Block :=
  match b.site with
  | .ct => exitCt b
  | .dl => exitDl b
  | .tp => exitTp p.trigUs b
  | .ref => exitRef b
  | .r => exitR b
  | .start => exitStart b
  | .f => exitF b
  | .endRead => exitEnd b
  | .gap => exitGap p.dtUs b
  | .idle | .dlRst | .trigOn | .tpRst | .trigOff | .rPin | .fPin | .done | .timedOut | .gapRst | .speed =>
    fun _ => .error .readWithoutStep

/-- R104, R107: at a reading site the sequencer's step is the paired read with the exit of the site. -/
theorem seqStep_of_reading {p : Params} {b : Block} (echo : Bool) (hs : isReading b.site = true) :
    seqStep p echo b = readPair p.width b (siteExit p b) := by
  unfold seqStep siteExit
  cases h : b.site with
  | ct | dl | tp | ref | r | start | f | endRead | gap => rfl
  | _ => rw [h] at hs; cases hs

/-- R123: the exit of `S_CT` converts. -/
theorem siteExit_ct {p : Params} {b : Block} (hs : b.site = .ct) : siteExit p b = exitCt b := by rw [siteExit, hs]

/-- R125: the exit of `S_DL` compares. -/
theorem siteExit_dl {p : Params} {b : Block} (hs : b.site = .dl) : siteExit p b = exitDl b := by rw [siteExit, hs]

/-- R107: what the paired read answers is the answer of the sequencer's step at a reading site. -/
theorem seqStep_of_readPair {p : Params} {b b' : Block} (echo : Bool) (hs : isReading b.site = true)
    (h : readPair p.width b (siteExit p b) = .ok b') : seqStep p echo b = .ok b' :=
  (seqStep_of_reading echo hs).trans h

/-- R104: an enabled sequencer whose step answers makes that step. -/
theorem step_seq_ok {s : State} {echo : Bool} {b : Block} (he : s.nextEvent = .seq echo) (hen : s.blk.seqEnabled = true)
    (hb : seqStep s.params echo s.blk = .ok b) : step s = .next (s.advance.withBlk b) := by
  rw [step_seq_enabled he hen, hb]

/-- R107: a turn of the sequencer at a reading site is a step of the paired read. -/
theorem State.SeqAt.step_readPair {s : State} {site : Site} {echo : Bool} {b : Block} (h : s.SeqAt site echo)
    (hs : isReading site = true) (hb : readPair s.params.width s.blk (siteExit s.params s.blk) = .ok b) :
    step s = .next (s.advance.withBlk b) := by
  obtain ⟨he, hen, rfl⟩ := h
  exact step_seq_ok he hen (seqStep_of_readPair echo hs hb)

/-- R107: the accepted third step of a paired read runs the exit of the site on its reading. -/
theorem State.ReadsAt.step_exit {s : State} {site : Site} {t : Nat} {b : Block} (h : s.ReadsAt site t)
    (hs : isReading site = true) (hb : siteExit s.params s.blk t = .ok b) : step s = .next (s.advance.withBlk b) := by
  obtain ⟨⟨echo, hat⟩, hr, ho, -⟩ := id h
  rw [h.ticks_eq] at hb
  exact hat.step_readPair hs ((readPair_accepted _ hr ho).trans hb)

/-- Settles O34: the three unfinished steps of `readPair`, whatever the site's exit. -/
theorem pairedReadReadsTwiceAndRetries : Obligations.PairedReadReadsTwiceAndRetries := by
  intro s site echo hat hmem
  have hs : isReading site = true := by
    revert hmem
    cases site <;> decide
  exact ⟨fun hr => hat.step_readPair hs (readPair_first _ hr), fun hr => hat.step_readPair hs (readPair_second _ hr),
    fun hr ho => hat.step_readPair hs (readPair_retry _ hr ho)⟩

/-! ### RDTIME and DELAY -/

/-- R123: the conversion of RDTIME, its time as a natural number. -/
theorem exitCt_eq {b : Block} {d : Nat} (t : Nat) (hd : divisor b.ps = some d) (hz : b.clkhz ≠ 0#32) :
    exitCt b t = .ok { b.finish with
      time := BitVec.ofNat 64 (t * d * 1000000 / b.clkhz.toNat),
      fRange := b.fRange || decide (2 ^ 64 ≤ t * d * 1000000 / b.clkhz.toNat), res := .valid } := by
  have hrange (n : Nat) : (!decide (n < 2 ^ 64)) = decide (2 ^ 64 ≤ n) := by simp [← decide_not]
  rw [exitCt, withClock_eq _ hd hz, timeUs_eq_natCast, fitsU64_natCast, hrange, store64, BitVec.ofInt_natCast]

/-- Settles O35: the acceptance, and the exit of `S_CT`. -/
theorem rdtimeStoresTheTimeAndFinishes : Obligations.RdtimeStoresTheTimeAndFinishes := by
  refine ⟨fun s hb hc => exec_timing_accepted hb hc (by decide : (Instr.rdtime, Op.rdtime, Site.ct, 1#2) ∈ timingStarts),
    fun s t d hread hd hz => hread.step_exit rfl ?_⟩
  obtain ⟨⟨echo, -, -, hs⟩, -⟩ := hread
  rw [siteExit_ct hs, exitCt_eq t hd hz]
  rfl

/-- R124: the first step of DELAY. -/
theorem seqStep_dlRst {p : Params} {b : Block} (echo : Bool) (hs : b.site = .dlRst) :
    seqStep p echo b = .ok (b.zero.goTo .dl 1#2) := by
  rw [seqStep, hs]
  rfl

/-- Settles O36: the acceptance, and the step of `S_DL_RST`. -/
theorem delayStartsByZeroingTheCounters : Obligations.DelayStartsByZeroingTheCounters :=
  ⟨fun s hb hc => exec_timing_accepted hb hc (by decide : (Instr.delay, Op.delay, Site.dlRst, 0#2) ∈ timingStarts),
    fun s echo ⟨he, hen, hs⟩ => step_seq_ok he hen (seqStep_dlRst echo hs)⟩

/-- R12: with a divisor a comparison picks one of its two outcomes. -/
theorem withDivisor_ite {b : Block} {d : Nat} (hd : divisor b.ps = some d) (c : Nat → Bool) (x y : Block) :
    withDivisor b (fun d => if c d then .ok x else .ok y) = .ok (if c d then x else y) := by
  rw [withDivisor_eq _ hd]
  split <;> rfl

/-- R125: DELAY ends when its bound is reached, and reads again otherwise. -/
theorem exitDl_eq {b : Block} {d : Nat} (t : Nat) (hd : divisor b.ps = some d) :
    exitDl b t = .ok (if reached d b.clkhz.toNat t b.duration.toNat then { b.finish with res := .valid }
      else b.goTo .dl 1#2) :=
  withDivisor_ite hd (reached · b.clkhz.toNat t b.duration.toNat) _ _

/-- Settles O37: the exit of `S_DL` on the two sides of its bound. -/
theorem delayEndsExactlyWhenReached : Obligations.DelayEndsExactlyWhenReached := by
  intro s t d hread hd
  obtain ⟨⟨echo, -, -, hs⟩, -⟩ := id hread
  have hreached := reached_natCast_iff d s.blk.clkhz.toNat t s.blk.duration.toNat
  refine ⟨fun hle => hread.step_exit rfl ?_, fun hlt => hread.step_exit rfl ?_⟩ <;> rw [siteExit_dl hs, exitDl_eq t hd]
  · rw [if_pos (hreached.2 hle)]
    rfl
  · rw [if_neg (mt hreached.1 hlt.not_ge), ← hs]
    rfl

/-! ### What an accepted read stores, converts or compares -/

/-- R12: `Exceeded` compares integers. -/
theorem exceeded_iff (d clk : Nat) (t : Int) (us : Nat) : exceeded d clk t us = true ↔ t * d * 1000000 > us * clk :=
  decide_eq_true_iff

/-- R144: the pulse ends when its bound is reached. -/
theorem exitTp_eq {b : Block} {d : Nat} (us t : Nat) (hd : divisor b.ps = some d) :
    exitTp us b t = .ok (if reached d b.clkhz.toNat t us then b.goTo .trigOff 0#2 else b.goTo .tp 1#2) :=
  withDivisor_ite hd (reached · b.clkhz.toNat t us) _ _

/-- R156: the gap ends when its bound is reached. -/
theorem exitGap_eq {b : Block} {d : Nat} (us : Word) (t : Nat) (hd : divisor b.ps = some d) :
    exitGap us b t = .ok (if reached d b.clkhz.toNat t us.toNat then { b.goTo .trigOn 0#2 with sample := true }
      else b.goTo .gap 1#2) :=
  withDivisor_ite hd (reached · b.clkhz.toNat t us.toNat) _ _

/-- R149, R152: a wait times out when its bound is exceeded. -/
theorem boundWait_eq {b : Block} {d : Nat} (t : Nat) (since : TickReg) (tok : Bool) (pin : Site)
    (hd : divisor b.ps = some d) :
    boundWait b t since tok pin =
      .ok (if exceeded d b.clkhz.toNat ((t : Int) - since.toNat) b.timeout.toNat then
        { b.goTo .timedOut 0#2 with tok := tok } else b.goTo pin 0#2) :=
  withDivisor_ite hd (exceeded · b.clkhz.toNat ((t : Int) - since.toNat) b.timeout.toNat) _ _

/-- Of two outcomes the one that the comparison picks is recognised by what it alone has. -/
theorem picked_iff {P : Block → Prop} {c : Bool} {x y b' : Block}
    (h : (.ok (if c then x else y) : Except Refusal Block) = .ok b') (hx : P x) (hy : ¬P y) : P b' ↔ c = true := by
  cases h
  cases c
  · exact iff_of_false hy Bool.false_ne_true
  · exact iff_of_true hx rfl

/-- R125: DELAY has ended exactly when its reading has reached `DURATION`. -/
theorem exitDl_ends_iff {b b' : Block} {d t : Nat} (hd : divisor b.ps = some d) (hb : b.busy = true)
    (h : exitDl b t = .ok b') : b'.busy = false ↔ b.duration.toNat * b.clkhz.toNat ≤ t * d * 1000000 := by
  rw [exitDl_eq t hd] at h
  rw [← reached_natCast_iff]
  exact picked_iff (P := (·.busy = false)) h rfl (by simp [hb])

/-- R144: the pulse has ended exactly when its reading has reached `TRIG_US`. -/
theorem exitTp_ends_iff {b b' : Block} {us d t : Nat} (hd : divisor b.ps = some d) (h : exitTp us b t = .ok b') :
    b'.site = .trigOff ↔ us * b.clkhz.toNat ≤ t * d * 1000000 := by
  rw [exitTp_eq us t hd] at h
  rw [← reached_natCast_iff]
  exact picked_iff (P := (·.site = .trigOff)) h rfl (by simp)

/-- R156: the gap has ended exactly when its reading has reached `DT_US`. -/
theorem exitGap_ends_iff {b b' : Block} {us : Word} {d t : Nat} (hd : divisor b.ps = some d)
    (h : exitGap us b t = .ok b') : b'.site = .trigOn ↔ us.toNat * b.clkhz.toNat ≤ t * d * 1000000 := by
  rw [exitGap_eq us t hd] at h
  rw [← reached_natCast_iff]
  exact picked_iff (P := (·.site = .trigOn)) h rfl (by simp)

/-- R149, R152: a wait has timed out exactly when the time since its start exceeds `TIMEOUT`. -/
theorem boundWait_timesOut_iff {b b' : Block} {d t : Nat} {since : TickReg} {tok : Bool} {pin : Site}
    (hpin : pin ≠ .timedOut) (hd : divisor b.ps = some d) (h : boundWait b t since tok pin = .ok b') :
    b'.site = .timedOut ↔ ((t : Int) - since.toNat) * d * 1000000 > b.timeout.toNat * b.clkhz.toNat := by
  rw [boundWait_eq t since tok pin hd] at h
  rw [← exceeded_iff]
  exact picked_iff (P := (·.site = .timedOut)) h rfl hpin

/-- R107: an enabled sequencer at the accepted third step of a paired read answers with the exit of its site. -/
theorem Legal.exit_answers {p : Params} {b : Block} (hl : Legal p b) (hen : b.seqEnabled = true) (hr : b.pairRead)
    (echo : Bool) : ∃ b', seqStep p echo b = .ok b' ∧ siteExit p b (ticks p.width b.o1 b.c1) = .ok b' := by
  obtain ⟨hrp, ho⟩ := hr
  have hs : isReading b.site = true := hl.readStep.1 (by simp [hrp])
  obtain ⟨b', hb'⟩ := hl.seqStep_answers (b.seqEnabled_iff.1 hen).1 echo
  refine ⟨b', hb', ?_⟩
  rwa [seqStep_of_reading echo hs, readPair_accepted _ hrp ho] at hb'

/-- Settles O56: the pair of an exact reading is the onlooker's count, and each site's exit is given that count. -/
theorem pairedReadIsExactAtItsSecondStep : Obligations.PairedReadIsExactAtItsSecondStep := by
  intro s w echo d hl hx hlost hwrap he hen hr ho hd
  obtain ⟨-, -, hpair, hpast⟩ := hx (by simp [Block.miscounted, hlost, hwrap])
  obtain ⟨hbusy, -⟩ := s.blk.seqEnabled_iff.1 hen
  obtain ⟨hz, -⟩ := hl.divisor_of_busy hbusy
  have hs : isReading s.blk.site = true := hl.readStep.1 (by simp [hr])
  obtain ⟨b, hb, hexit⟩ := hl.exit_answers hen ⟨hr, ho⟩ echo
  have hstored := ticks_stored s.params.width s.blk.o1 s.blk.c1
  rw [hpair hs hr ho] at hexit hstored
  refine ⟨hpast hs hr, _, step_seq_ok he hen hb, ?_⟩
  rw [State.withBlk_blk]
  refine ⟨fun hat => ?ref, fun hat => ?start, fun hat => ?endRead, fun hat => ?ct, fun hat => ?dl, fun hat => ?tp,
    fun hat => ?gap, fun hat => ?r, fun hat => ?f⟩ <;> simp only [siteExit, hat] at hexit
  case ref | start | endRead =>
    cases hexit
    exact ⟨hstored, rfl⟩
  case ct =>
    rw [exitCt_eq _ hd hz] at hexit
    cases hexit
    exact ⟨rfl, rfl⟩
  case dl => exact exitDl_ends_iff hd hbusy hexit
  case tp => exact exitTp_ends_iff hd hexit
  case gap => exact exitGap_ends_iff hd hexit
  case r | f => exact boundWait_timesOut_iff (by decide) hd hexit

/-! ### DELAY never ends early -/

/-- R100: a tick leaves `BUSY` alone. -/
theorem Block.tick_busy (w : CounterWidth) (b : Block) : (b.tick w).busy = b.busy := by
  rcases b.tick_cases w with ⟨-, ht⟩ | ⟨-, ht⟩ <;> rw [ht]

/-- R102: the handler leaves `BUSY` alone. -/
theorem Block.takeOverflow_busy (b : Block) : b.takeOverflow.busy = b.busy := by
  rcases b.takeOverflow_cases with ⟨-, ht⟩ | ⟨-, ht⟩ <;> rw [ht]

/-- R106: away from reset a command is ended by a step of its sequencer. -/
theorem BlockStep.ends_by_seqMove {s : State} {b : Block} (h : BlockStep s b) (hr : s.nextEvent ≠ .reset)
    (hb : s.blk.busy = true) (hend : b.busy = false) :
    ∃ echo, s.nextEvent = .seq echo ∧ s.blk.seqEnabled = true ∧ SeqMove s.params echo s.blk b := by
  cases h with
  | tickOff | ovhOff | seqOff | read | ignored => simp [hb] at hend
  | tick => simp [Block.tick_busy, hb] at hend
  | ovh => simp [Block.takeOverflow_busy, hb] at hend
  | seq he hen hm => exact ⟨_, he, hen, hm⟩
  | operand _ hidle | reject _ _ hidle | config _ hidle | begin _ hidle => simp [hb] at hidle
  | reset he => exact absurd he hr

/-- R125, R126: a move that ends DELAY is the exit of `S_DL`; the other moves that end a command are at sites of other
commands. -/
theorem SeqMove.ends_delay {p : Params} {echo : Bool} {b b' : Block} (h : SeqMove p echo b b')
    (ho : siteAllows b.site .delay b.sample = true) (hb : b.busy = true) (hend : b'.busy = false) :
    b.site = .dl ∧ b.pairRead := by
  cases h with
  | delayEnd hs hr => exact ⟨hs, hr⟩
  | time hs | done hs | timeout hs | noSpeed hs | speed hs => simp [hs, siteAllows] at ho
  | _ => simp [hb] at hend

/-- Settles O57: the step that ends DELAY is an accepted read at `S_DL`, which O56 says is exact. -/
theorem delayNeverEndsEarly : Obligations.DelayNeverEndsEarly := by
  intro s t w d hl hx hlost hwrap hreset hop hbusy hstep hend hd
  obtain ⟨-, hblk⟩ := step_block hstep
  obtain ⟨echo, he, hen, hm⟩ := hblk.ends_by_seqMove hreset hbusy hend
  obtain ⟨hs, hr, ho⟩ := hm.ends_delay (hop ▸ hl.siteOp) hbusy hend
  obtain ⟨hpast, t', hstep', -, -, -, -, hdl, -⟩ :=
    pairedReadIsExactAtItsSecondStep s w echo d hl hx hlost hwrap he hen hr ho hd
  rw [hstep] at hstep'
  cases hstep'
  exact ⟨(hdl hs).1 hend, hpast⟩

/-! ### Elapsed ticks between zeroings -/

/-- R114: a change to the block by a step that zeroes nothing does not decrease the elapsed ticks, unless it loses an overflow
or wraps `OVF`. -/
theorem BlockStep.elapsed_le {s : State} {b : Block} (h : BlockStep s b) (hl : Legal s.params s.blk)
    (hz : s.zeroes = false) (hlost : b.fLost = false) (hwrap : b.fOvfwrap = false) :
    s.blk.elapsed s.params.width ≤ b.elapsed s.params.width := by
  cases h with
  | tickOff | ovhOff | seqOff | read | ignored | reject | begin => exact le_rfl
  | tick => exact (Block.tick_elapsed hl.cntRange hlost).symm ▸ Nat.le_succ _
  | ovh _ hen =>
    have hne : s.blk.ovf ≠ 4294967295#32 := fun hmax => by simp [Block.takeOverflow, hmax] at hwrap
    exact (Block.takeOverflow_elapsed _ (s.blk.ovhEnabled_iff.1 hen).1 hne).2.ge
  | seq he hen hm =>
    rcases hm.counters with ⟨hcnt, hovf, hovp⟩ | ⟨hs, -⟩
    · simp [Block.elapsed, hcnt, hovf, hovp]
    · simp [(State.zeroes_seq he hen).2 hs] at hz
  | @operand off v =>
    obtain ⟨c, d, t, ho⟩ := s.blk.writeOperand_frame off v
    exact ho ▸ le_rfl
  | config he hb hd hp hc hclk => simp [State.zeroes, he, hb, configureSucceeds, hd, hp, hc, hclk] at hz
  | reset he => simp [State.zeroes, he] at hz

/-- Settles O58, by cases on everything a step can do. -/
theorem timeIsMonotonicBetweenZeroings : Obligations.TimeIsMonotonicBetweenZeroings := by
  intro s t hl hstep hz hlost hwrap
  obtain ⟨hp, hblk⟩ := step_block hstep
  rw [hp]
  exact hblk.elapsed_le hl hz hlost hwrap

/-! ### Whole commands without interruption -/

/-- A run makes its first step and then the rest. -/
theorem run_succ (M : Host.Core) {s t : M.State} {k : Nat} {o : Host.Outcome M.State M.Fault M.Refusal}
    (h : M.step s = .next t) (hrest : M.run k t = o) : M.run (k + 1) s = o := by
  rw [Host.Core.run, h]
  exact hrest

section
variable {s : State} {b : Block} {es : List Event} {k : Nat} {o : Host.Outcome State Fault Refusal}

/-- A run whose first placed input is the byte of a timing command begins by starting that command (R81, R121). -/
theorem run_start {v : Word} {i : Instr} {op : Op} {site : Site} {rp : BitVec 2}
    (hev : s.events = .host (.write 0x00#7 v) :: es) (hd : decode (commandByte v) = .command i)
    (hi : (i, op, site, rp) ∈ timingStarts) (hb : s.blk.busy = false) (hc : s.blk.cfgd = true)
    (hrest : Host.Core.run core k { s with events := es, blk := s.blk.begin op site rp } = o) :
    Host.Core.run core (k + 1) s = o := by
  refine run_succ core (?_ : step s = _) hrest
  rw [step_write (State.nextEvent_cons hev), State.advance_cons hev, hostWrite_command _ hd]
  exact exec_timing_accepted hb hc hi

/-- A run whose first placed input is a turn of an enabled sequencer begins with its step (R104). -/
theorem run_seq {echo : Bool} (hev : s.events = .seq echo :: es) (hen : s.blk.seqEnabled = true)
    (hb : seqStep s.params echo s.blk = .ok b)
    (hrest : Host.Core.run core k { s with events := es, blk := b } = o) : Host.Core.run core (k + 1) s = o := by
  refine run_succ core (?_ : step s = _) hrest
  rw [step_seq_ok (State.nextEvent_cons hev) hen hb, State.advance_cons hev]
  rfl

/-- The block at the third step of a paired read that nothing has interrupted (R107). -/
def Block.readTwice (b : Block) : Block := { b with o1 := b.ovf, c1 := b.cnt, rp := 3#2 }

/-- R107 a: three turns of the sequencer with no other step between are one accepted paired read, of the counters as they
stand. -/
theorem run_pairedRead {e1 e2 e3 : Bool} (hev : s.events = .seq e1 :: .seq e2 :: .seq e3 :: es)
    (hen : s.blk.seqEnabled = true) (hs : isReading s.blk.site = true) (hr : s.blk.rp = 1#2)
    (hb : siteExit s.params s.blk.readTwice (ticks s.params.width s.blk.ovf s.blk.cnt) = .ok b)
    (hrest : Host.Core.run core k { s with events := es, blk := b } = o) : Host.Core.run core (k + 3) s = o := by
  refine run_seq hev hen (seqStep_of_readPair e1 hs (readPair_first _ hr)) ?_
  refine run_seq rfl hen (seqStep_of_readPair e2 hs (readPair_second _ rfl)) ?_
  exact run_seq rfl hen (seqStep_of_readPair e3 hs ((readPair_accepted _ rfl rfl).trans hb)) hrest

end

/-- R123: RDTIME written to `CMD` and run by three turns of the sequencer makes one paired read of the counters as they
stand. -/
theorem run_rdtime {s : State} {b : Block} {e1 e2 e3 : Bool} {es : List Event}
    (hev : s.events = .host (.write 0x00#7 0x02#32) :: .seq e1 :: .seq e2 :: .seq e3 :: es) (hb : s.blk.busy = false)
    (hc : s.blk.cfgd = true) (hp : s.blk.ovp = false)
    (hexit : exitCt (s.blk.begin .rdtime .ct 1#2).readTwice (ticks s.params.width s.blk.ovf s.blk.cnt) = .ok b) :
    Host.Core.run core 4 s = .next { s with events := es, blk := b } := by
  refine run_start (op := .rdtime) (site := .ct) (rp := 1#2) hev (decode_encode .rdtime) (by decide) hb hc ?_
  rw [← siteExit_ct (p := s.params) rfl] at hexit
  exact run_pairedRead rfl (by simp [Block.seqEnabled, hp]) rfl rfl hexit rfl

/-- Settles O59: the exit of RDTIME's one paired read converts it. -/
theorem rdtimeDeliversInThreeSteps : Obligations.RdtimeDeliversInThreeSteps := by
  intro s es e1 e2 e3 d hev hb hc hp hd hz
  have hexit := exitCt_eq (b := (s.blk.begin .rdtime .ct 1#2).readTwice) (ticks s.params.width s.blk.ovf s.blk.cnt) hd hz
  exact ⟨_, run_rdtime hev hb hc hp hexit, rfl, rfl, rfl, rfl, rfl, rfl, rfl⟩

/-- The block at `S_DL` of a DELAY that a configured idle block has just started (R121, R124). -/
def Block.delayStarted (b : Block) : Block := (b.begin .delay .dlRst 0#2).zero.goTo .dl 1#2

/-- R124, R125: DELAY written to `CMD` and run by four turns of the sequencer zeroes the counters and makes one paired read of
them. -/
theorem run_delay {s : State} {b : Block} {e1 e2 e3 e4 : Bool} {es : List Event}
    (hev : s.events = .host (.write 0x00#7 0x03#32) :: .seq e1 :: .seq e2 :: .seq e3 :: .seq e4 :: es)
    (hb : s.blk.busy = false) (hc : s.blk.cfgd = true) (hp : s.blk.ovp = false)
    (hexit : exitDl s.blk.delayStarted.readTwice 0 = .ok b) :
    Host.Core.run core 5 s = .next { s with events := es, blk := b } := by
  refine run_start (op := .delay) (site := .dlRst) (rp := 0#2) hev (decode_encode .delay) (by decide) hb hc ?_
  refine run_seq rfl (by simp [Block.seqEnabled, hp]) (seqStep_dlRst e1 rfl) ?_
  have hticks : ticks s.params.width 0#32 0#16 = 0 := by simp [ticks]
  rw [← siteExit_dl (p := s.params) rfl, ← hticks] at hexit
  exact run_pairedRead rfl (by simp [Block.seqEnabled]) rfl rfl hexit rfl

/-- Settles O60: the read of zeroed counters has reached a `DURATION` of 0 and no other. -/
theorem delayOfZeroEndsAtItsFirstRead : Obligations.DelayOfZeroEndsAtItsFirstRead := by
  intro s es e1 e2 e3 e4 hev hb hc hp hps hz
  obtain ⟨d, hd⟩ := divisor_of_running hps
  have hreached : reached d s.blk.clkhz.toNat (0 : Nat) s.blk.duration.toNat = true ↔ s.blk.duration = 0#32 := by
    have hclk : s.blk.clkhz.toNat ≠ 0 := fun h => hz (BitVec.eq_of_toNat_eq h)
    rw [reached_natCast_iff, ← BitVec.toNat_inj]
    simp [hclk]
  have hexit := exitDl_eq (b := s.blk.delayStarted.readTwice) 0 hd
  by_cases hdur : s.blk.duration = 0#32
  · have hend := hexit.trans (congrArg _ (if_pos (hreached.2 hdur)))
    exact ⟨_, run_delay hev hb hc hp hend, rfl, rfl, rfl, fun _ => ⟨rfl, rfl⟩, fun hne => absurd hdur hne⟩
  · have hagain := hexit.trans (congrArg _ (if_neg (mt hreached.1 hdur)))
    exact ⟨_, run_delay hev hb hc hp hagain, rfl, rfl, rfl, fun h => absurd h hdur, fun _ => ⟨rfl, rfl, rfl⟩⟩

end Sys2Proof.Machine

/-!
PROOFS. The statements of spec/41_ranging_ops.md: the sites of a measurement, of the gap and of the speed, and the state
machine they make.
-/
namespace Sys2Proof.Machine

/-! ### One turn of the sequencer at a known site -/

/-- R104: a turn at a known site makes that site's step, computed on the block with its site written out. -/
theorem State.SeqAt.step_at {s : State} {site : Site} {echo : Bool} {b : Block} (h : s.SeqAt site echo)
    (hb : seqStep s.params echo { s.blk with site := site } = .ok b) : step s = .next (s.advance.withBlk b) := by
  obtain ⟨he, hen, rfl⟩ := h
  exact step_seq_ok he hen hb

/-- R107: an accepted read at a known site runs that site's exit, computed on the block with its site written out. -/
theorem State.ReadsAt.step_exit_at {s : State} {site : Site} {t : Nat} {b : Block} (h : s.ReadsAt site t)
    (hs : isReading site = true) (hb : siteExit s.params { s.blk with site := site } t = .ok b) :
    step s = .next (s.advance.withBlk b) := by
  obtain ⟨⟨echo, -, -, rfl⟩, -⟩ := id h
  exact h.step_exit hs hb

/-- R144, R156: an accepted read of a delay goes on when it has reached the bound and is repeated when it has not. -/
theorem State.ReadsAt.step_delay {s : State} {site : Site} {t d us : Nat} {b : Block} (h : s.ReadsAt site t)
    (hs : isReading site = true)
    (hexit : siteExit s.params { s.blk with site := site } t =
      .ok (if reached d s.blk.clkhz.toNat t us then b else { s.blk with site := site, rp := 1#2 })) :
    (us * s.blk.clkhz.toNat ≤ t * d * 1000000 → step s = .next (s.advance.withBlk b)) ∧
      (t * d * 1000000 < us * s.blk.clkhz.toNat → step s = .next (s.advance.withBlk { s.blk with rp := 1#2 })) := by
  have hreached := reached_natCast_iff d s.blk.clkhz.toNat t us
  refine ⟨fun hle => h.step_exit_at hs ?_, fun hlt => h.step_exit_at hs ?_⟩ <;> rw [hexit]
  · rw [if_pos (hreached.2 hle)]
  · obtain ⟨⟨echo, -, -, rfl⟩, -⟩ := h
    rw [if_neg (mt hreached.1 hlt.not_ge)]

/-- R149, R152: an accepted read of a wait times out when the time since its start exceeds `TIMEOUT`, and goes back to the pin
when it does not. -/
theorem State.ReadsAt.step_wait {s : State} {site pin : Site} {t d : Nat} {since : TickReg} {tok : Bool}
    (h : s.ReadsAt site t) (hs : isReading site = true) (hd : divisor s.blk.ps = some d)
    (hexit : siteExit s.params { s.blk with site := site } t = boundWait { s.blk with site := site } t since tok pin) :
    (((t : Int) - since.toNat) * d * 1000000 > s.blk.timeout.toNat * s.blk.clkhz.toNat →
      step s = .next (s.advance.withBlk { s.blk with tok := tok, site := .timedOut, rp := 0#2 })) ∧
    (((t : Int) - since.toNat) * d * 1000000 ≤ s.blk.timeout.toNat * s.blk.clkhz.toNat →
      step s = .next (s.advance.withBlk { s.blk with site := pin, rp := 0#2 })) := by
  have hexceeded := exceeded_iff d s.blk.clkhz.toNat ((t : Int) - since.toNat) s.blk.timeout.toNat
  have hwait := hexit.trans (boundWait_eq t since tok pin hd)
  refine ⟨fun hgt => h.step_exit_at hs ?_, fun hle => h.step_exit_at hs ?_⟩ <;> rw [hwait]
  · rw [if_pos (hexceeded.2 hgt)]
    rfl
  · rw [if_neg (mt hexceeded.1 hle.not_gt)]
    rfl

/-- R35: a register of 48 bits holds the reading of a paired read as it is. -/
theorem State.ReadsAt.stored {s : State} {site : Site} {t : Nat} (h : s.ReadsAt site t) :
    (BitVec.ofNat 48 t).toNat = t := by
  rw [h.ticks_eq, ticks_stored]

/-! ### The trigger pulse, the recorded readings and the waits -/

/-- Settles O38: the three steps that read nothing, and the exit of `S_TP` on the two sides of its bound. -/
theorem triggerPulseLastsTheDelay : Obligations.TriggerPulseLastsTheDelay :=
  ⟨fun _ _ hat => hat.step_at rfl, fun _ _ hat => hat.step_at rfl,
    fun s t _ hread hd => hread.step_delay rfl (exitTp_eq s.params.trigUs t hd), fun _ _ hat => hat.step_at rfl⟩

/-- Settles O39: each exit stores its reading, which the register holds. -/
theorem recordedReadingsAreExact : Obligations.RecordedReadingsAreExact :=
  ⟨fun _ _ hread => ⟨_, hread.stored, hread.step_exit_at rfl rfl⟩,
    fun _ _ hread => ⟨_, hread.stored, hread.step_exit_at rfl rfl⟩,
    fun _ _ hread => ⟨_, hread.stored, hread.step_exit_at rfl rfl⟩⟩

/-- Settles O40: the step of each pin site at each level. -/
theorem pinSamplesDecideTheWaits : Obligations.PinSamplesDecideTheWaits :=
  ⟨fun _ hat => hat.step_at rfl, fun _ hat => hat.step_at rfl, fun _ hat => hat.step_at rfl, fun _ hat => hat.step_at rfl⟩

/-- Settles O41: the bound check of the rise wait, from `REF`. -/
theorem riseWaitTimesOutWhenExceeded : Obligations.RiseWaitTimesOutWhenExceeded :=
  fun _ _ _ hread hd => hread.step_wait rfl hd rfl

/-- Settles O42: the bound check of the fall wait, from `START`. -/
theorem fallWaitTimesOutWhenExceeded : Obligations.FallWaitTimesOutWhenExceeded :=
  fun _ _ _ hread hd => hread.step_wait rfl hd rfl

/-! ### The results of a measurement -/

/-- R10: the floor of a quotient whose divisor is not negative is `Int.fdiv`. -/
theorem floorDiv_eq_fdiv (a : Int) {b : Int} (hb : 0 ≤ b) : floorDiv a b = Int.fdiv a b :=
  (Int.fdiv_eq_ediv_of_nonneg a hb).symm

/-- R10, R112: a value does not fit 64 bits signed when it lies below or above their range. -/
theorem not_fitsS64 (v : Int) :
    (!fitsS64 v) = decide (v < -9223372036854775808 ∨ 9223372036854775807 < v) := by
  rw [fitsS64, ← Bool.decide_and, ← decide_not]
  exact decide_eq_decide.2 (by omega)

/-- R38: the sentinel is the one pattern that reads as -1. -/
theorem toInt_eq_neg_one_iff (x : Long) : x.toInt = -1 ↔ x = sentinel := by
  have hsentinel : sentinel.toInt = -1 := by decide
  rw [← hsentinel, BitVec.toInt_inj]

/-- R153, R154: MEASURE finishes with the value in `DIST`. -/
theorem deliver_measure {b : Block} (d : Long) (res : Res) (ho : b.op = .measure) :
    deliver b d res = { b.finish with dist := d, res := res } := by
  simp [deliver, ho]

/-- R153, R154: MSPEED keeps the value of its first sample in `DIST1`. -/
theorem deliver_first {b : Block} (d : Long) (res : Res) (ho : b.op ≠ .measure) (hs : b.sample = false) :
    deliver b d res = { b.goTo .gapRst 0#2 with dist1 := d } := by
  simp [deliver, ho, hs]

/-- R153, R154: MSPEED keeps the value of its second sample in `DIST`. -/
theorem deliver_second {b : Block} (d : Long) (res : Res) (ho : b.op ≠ .measure) (hs : b.sample = true) :
    deliver b d res = { b.goTo .speed 0#2 with dist := d } := by
  simp [deliver, ho, hs]

/-- R153: the conversion of `S_DONE`, its distance as the floor `v`. -/
theorem siteDone_eq {sos : Word} {b : Block} {d : Nat} {v : Int} (hd : divisor b.ps = some d) (hz : b.clkhz ≠ 0#32)
    (hv : v = Int.fdiv (((b.endT.toNat : Int) - b.startT.toNat) * d * sos.toNat * 1000) (2 * b.clkhz.toNat)) :
    siteDone sos b = .ok { deliver b (BitVec.ofInt 64 v) .valid with
      fRange := b.fRange || decide (v < -9223372036854775808 ∨ 9223372036854775807 < v) } := by
  rw [siteDone, withClock_eq _ hd hz, distUm, floorDiv_eq_fdiv _ (by omega), ← hv, not_fitsS64, store64]

/-- R88, R153: the step of `S_DONE` converts. -/
theorem seqStep_done {p : Params} {b : Block} (echo : Bool) (hs : b.site = .done) :
    seqStep p echo b = siteDone p.sos b := by
  rw [seqStep, hs]

/-- Settles O43: the conversion, and the three ways to deliver its value. -/
theorem doneDeliversTheDistance : Obligations.DoneDeliversTheDistance := by
  intro s echo d v ⟨he, hen, hs⟩ hd hz hv wide hwide
  have hstep : seqStep s.params echo s.blk =
      .ok { deliver s.blk (BitVec.ofInt 64 v) .valid with fRange := wide } := by
    rw [seqStep_done echo hs, siteDone_eq hd hz hv, hwide]
  refine ⟨fun ho => step_seq_ok he hen (hstep.trans ?_), fun ho hf => step_seq_ok he hen (hstep.trans ?_),
    fun ho hf => step_seq_ok he hen (hstep.trans ?_)⟩
  · rw [deliver_measure _ _ ho]
    rfl
  · rw [deliver_first _ _ ho hf]
    rfl
  · rw [deliver_second _ _ ho hf]
    rfl

/-- Settles O44: the three ways to deliver the sentinel. -/
theorem timeoutDeliversTheSentinel : Obligations.TimeoutDeliversTheSentinel := fun _ _ hat =>
  ⟨fun ho => hat.step_at (congrArg _ (deliver_measure _ _ ho)),
    fun ho hs => hat.step_at (congrArg _ (deliver_first _ _ ho hs)),
    fun ho hs => hat.step_at (congrArg _ (deliver_second _ _ ho hs))⟩

/-- Settles O45: the zeroing, and the exit of `S_GAP` on the two sides of its bound. -/
theorem gapDelaysTheSecondSample : Obligations.GapDelaysTheSecondSample :=
  ⟨fun _ _ hat => hat.step_at rfl, fun s t _ hread hd => hread.step_delay rfl (exitGap_eq s.params.dtUs t hd)⟩

/-- R157: with a sample that timed out the speed is the marker. -/
theorem siteSpeed_marker {dtUs : Word} {b : Block} (hm : b.dist1 = sentinel ∨ b.dist = sentinel) :
    siteSpeed dtUs b = .ok { b.finish with speed := speedMarker, res := .indet } :=
  if_pos hm

/-- R157: with two valid samples the speed is the floor `v`. -/
theorem siteSpeed_valid {dtUs : Word} {b : Block} {v : Int} (hm : ¬(b.dist1 = sentinel ∨ b.dist = sentinel))
    (hg : dtUs ≠ 0#32) (hv : v = Int.fdiv ((b.dist.toInt - b.dist1.toInt) * 1000000) dtUs.toNat) :
    siteSpeed dtUs b = .ok { b.finish with
      speed := BitVec.ofInt 64 v, res := .valid,
      fRange := b.fRange || decide (v < -9223372036854775808 ∨ 9223372036854775807 < v) } := by
  rw [siteSpeed, if_neg hm, if_neg hg, speedUmPerS, floorDiv_eq_fdiv _ (by omega), ← hv, not_fitsS64, store64]

/-- Settles O46: a sample reads as -1 exactly when it is the sentinel. -/
theorem speedIsTheFlooredDifferenceOrTheMarker : Obligations.SpeedIsTheFlooredDifferenceOrTheMarker := by
  intro s echo v hat hg hv
  have hsentinel : (s.blk.dist1.toInt = -1 ∨ s.blk.dist.toInt = -1) ↔ (s.blk.dist1 = sentinel ∨ s.blk.dist = sentinel) :=
    or_congr (toInt_eq_neg_one_iff _) (toInt_eq_neg_one_iff _)
  refine ⟨fun hm => hat.step_at (siteSpeed_marker (hsentinel.1 hm)), fun h1 h2 => hat.step_at ?_⟩
  exact siteSpeed_valid (mt hsentinel.2 (not_or.2 ⟨h1, h2⟩)) hg hv

/-! ### The state machine -/

/-- The transitions of R142, site to site. -/
def measurementArcs : List (Site × Site) :=
  [(.trigOn, .tpRst), (.tpRst, .tp), (.tp, .trigOff), (.trigOff, .ref), (.ref, .rPin), (.rPin, .start), (.rPin, .r),
    (.r, .timedOut), (.r, .rPin), (.start, .fPin), (.fPin, .endRead), (.fPin, .f), (.f, .timedOut), (.f, .fPin),
    (.endRead, .done), (.done, .idle), (.done, .gapRst), (.done, .speed), (.timedOut, .idle), (.timedOut, .gapRst),
    (.timedOut, .speed)]

/-- The transitions outside a measurement: RDTIME, DELAY, the gap and the speed of MSPEED (R123 to R125, R156, R157). -/
def timerArcs : List (Site × Site) :=
  [(.ct, .idle), (.dlRst, .dl), (.dl, .idle), (.gapRst, .gap), (.gap, .trigOn), (.speed, .idle)]

/-- Every move of the sequencer stays at its reading site or goes along an arc. -/
theorem SeqMove.arc {p : Params} {echo : Bool} {b b' : Block} (h : SeqMove p echo b b') :
    (isReading b.site = true ∧ b'.site = b.site) ∨ (b.site, b'.site) ∈ measurementArcs ++ timerArcs := by
  cases h with
  | readFirst hs | readSecond hs | readRetry hs => exact .inl ⟨hs, rfl⟩
  | delayAgain hs => exact .inl ⟨by rcases hs with hs | hs | hs <;> rw [hs] <;> rfl, rfl⟩
  | _ => right; rw [‹b.site = _›]; simp [measurementArcs, timerArcs]

/-- R104: what a turn of the sequencer answers is one of its moves. -/
theorem State.SeqAt.move {s t : State} {site : Site} {echo : Bool} (h : s.SeqAt site echo) (hstep : step s = .next t) :
    SeqMove s.params echo s.blk t.blk := by
  rw [h.step_eq] at hstep
  split at hstep <;> cases hstep
  exact seqStep_move ‹_›

/-- Settles O47: the arcs outside a measurement all leave a site of phase 0. -/
theorem measurementFollowsTheTransitionRelation : Obligations.MeasurementFollowsTheTransitionRelation := by
  intro s t site echo hat hphase hstep
  have htimer : ∀ arc ∈ timerArcs, phase arc.1 = 0#3 := by decide
  have harc := (hat.move hstep).arc
  obtain ⟨-, -, rfl⟩ := hat
  exact harc.imp_right fun h => (List.mem_append.1 h).resolve_right fun h => hphase (htimer _ h)

/-- The arcs between the phases of R140. -/
def phaseArcs : List (BitVec 3 × BitVec 3) :=
  [(0#3, 1#3), (1#3, 2#3), (2#3, 3#3), (2#3, 5#3), (3#3, 4#3), (3#3, 5#3), (4#3, 0#3), (5#3, 0#3)]

/-- R140, R142: an arc between sites keeps the phase or is an arc between phases. -/
theorem phase_of_arc : ∀ arc ∈ measurementArcs ++ timerArcs,
    phase arc.2 = phase arc.1 ∨ (phase arc.1, phase arc.2) ∈ phaseArcs := by
  decide

/-- R121, R140: a timing command starts in IDLE or in TRIGGER_PULSE. -/
theorem timingStarts_phase {i : Instr} {op : Op} {site : Site} {rp : BitVec 2} (h : (i, op, site, rp) ∈ timingStarts) :
    phase site = 0#3 ∨ phase site = 1#3 := by
  have hstarts : ∀ start ∈ timingStarts, phase start.2.2.1 = 0#3 ∨ phase start.2.2.1 = 1#3 := by decide
  exact hstarts _ h

/-- R100: a tick leaves `SITE` alone. -/
theorem Block.tick_site (w : CounterWidth) (b : Block) : (b.tick w).site = b.site := by
  rcases b.tick_cases w with ⟨-, ht⟩ | ⟨-, ht⟩ <;> rw [ht]

/-- R102, R188: the handler leaves `SITE` alone. -/
theorem Block.takeOverflow_site (b : Block) : b.takeOverflow.site = b.site := by
  rcases b.takeOverflow_cases with ⟨-, ht⟩ | ⟨-, ht⟩ <;> rw [ht]

/-- R140: of all that a step but reset can do, the sequencer's moves and the start of a command change the phase, along an arc. -/
theorem BlockStep.phase_arc {s : State} {b : Block} (h : BlockStep s b) (hl : Legal s.params s.blk)
    (hr : s.nextEvent ≠ .reset) :
    phase b.site = phase s.blk.site ∨ (phase s.blk.site, phase b.site) ∈ phaseArcs := by
  cases h with
  | tickOff | ovhOff | seqOff | read | ignored | reject | config => exact .inl rfl
  | tick => exact .inl (by rw [Block.tick_site])
  | ovh => exact .inl (by rw [Block.takeOverflow_site])
  | seq _ _ hm =>
    rcases hm.arc with ⟨-, hsame⟩ | harc
    · exact .inl (by rw [hsame])
    · exact phase_of_arc _ harc
  | @operand off v =>
    obtain ⟨c, d, t, ho⟩ := s.blk.writeOperand_frame off v
    exact .inl (by rw [ho])
  | begin _ hb _ _ hi =>
    rw [hl.idleSite.2 hb, Block.begin_site]
    rcases timingStarts_phase hi with hp | hp <;> rw [hp] <;> decide
  | reset he => exact absurd he hr

/-- Settles O48, by cases on everything a step can do. -/
theorem phasesFollowTheChain : Obligations.PhasesFollowTheChain := by
  intro s t hl hr hstep
  obtain ⟨-, hb⟩ := step_block hstep
  exact hb.phase_arc hl hr

/-- R147: the step of every site but the two pin sites is the same at both levels. -/
theorem seqStep_echo {p : Params} {b : Block} (hr : b.site ≠ .rPin) (hf : b.site ≠ .fPin) :
    seqStep p true b = seqStep p false b := by
  unfold seqStep
  cases hs : b.site with
  | rPin => exact absurd hs hr
  | fPin => exact absurd hs hf
  | _ => rfl

/-- Settles O49: the turn of the sequencer looks at the level in `seqStep` alone. -/
theorem echoMattersOnlyAtThePinSites : Obligations.EchoMattersOnlyAtThePinSites := by
  intro s es hr hf
  have hturn (echo : Bool) : step { s with events := .seq echo :: es } = sequencerStep echo { s with events := es } :=
    step_seq rfl
  rw [hturn, hturn, sequencerStep, sequencerStep, seqStep_echo hr hf]

end Sys2Proof.Machine

/-!
PROOFS. The statements of spec/60_exceptions.md: what sets each sticky fault bit, and the state in which a command ends.
-/
namespace Sys2Proof.Machine

/-! ### The sticky fault bits -/

/-- R184: a fault bit that is set in `b'` was set in `b` already. -/
structure NoNewFault (b b' : Block) : Prop where
  lost : b'.fLost = true → b.fLost = true
  ovfwrap : b'.fOvfwrap = true → b.fOvfwrap = true
  range : b'.fRange = true → b.fRange = true

/-- R101, R184: a tick sets `F_LOST` alone, at `MAXC` with a request pending. -/
theorem Block.tick_faults (w : CounterWidth) (b : Block) :
    ((b.tick w).fLost = true → b.fLost = true ∨ b.ovp = true ∧ b.cnt.toNat = maxCount w) ∧
      (b.tick w).fOvfwrap = b.fOvfwrap ∧ (b.tick w).fRange = b.fRange := by
  rcases b.tick_cases w with ⟨hmax, ht⟩ | ⟨-, ht⟩ <;> rw [ht]
  · exact ⟨fun hlost => (Bool.or_eq_true_iff.1 hlost).imp_right fun hovp => ⟨hovp, hmax⟩, rfl, rfl⟩
  · exact ⟨.inl, rfl, rfl⟩

/-- R102, R184: the handler sets `F_OVFWRAP` alone, at the largest value of `OVF`. -/
theorem Block.takeOverflow_faults (b : Block) :
    b.takeOverflow.fLost = b.fLost ∧
      (b.takeOverflow.fOvfwrap = true → b.fOvfwrap = true ∨ b.ovf = 4294967295#32) ∧
      b.takeOverflow.fRange = b.fRange := by
  rcases b.takeOverflow_cases with ⟨hmax, ht⟩ | ⟨-, ht⟩ <;> rw [ht]
  · exact ⟨rfl, fun _ => .inr hmax, rfl⟩
  · exact ⟨rfl, .inl, rfl⟩

/-- R112, R184: a move of the sequencer writes `F_RANGE` at the three converting sites only. -/
theorem SeqMove.fRange {p : Params} {echo : Bool} {b b' : Block} (h : SeqMove p echo b b') :
    b'.fRange = b.fRange ∨ b.site = .ct ∨ b.site = .done ∨ b.site = .speed := by
  cases h with
  | time hs => exact .inr (.inl hs)
  | done hs | doneFirst hs | doneSecond hs => exact .inr (.inr (.inl hs))
  | speed hs => exact .inr (.inr (.inr hs))
  | _ => exact .inl rfl

/-- R184: of all that a step can do, a tick, the handler and the sequencer's moves alone can set a fault bit. -/
theorem BlockStep.fault_cases {s : State} {b : Block} (h : BlockStep s b) :
    (s.nextEvent = .tick ∧ b = s.blk.tick s.params.width) ∨ (s.nextEvent = .ovh ∧ b = s.blk.takeOverflow) ∨
      (∃ echo, s.nextEvent = .seq echo ∧ SeqMove s.params echo s.blk b) ∨ NoNewFault s.blk b := by
  cases h with
  | tick he => exact .inl ⟨he, rfl⟩
  | ovh he => exact .inr (.inl ⟨he, rfl⟩)
  | seq he _ hm => exact .inr (.inr (.inl ⟨_, he, hm⟩))
  | tickOff | ovhOff | seqOff | read | ignored | reject | config | begin => exact .inr (.inr (.inr ⟨id, id, id⟩))
  | @operand off v =>
    obtain ⟨c, d, t, ho⟩ := s.blk.writeOperand_frame off v
    rw [ho]
    exact .inr (.inr (.inr ⟨id, id, id⟩))
  | reset => exact .inr (.inr (.inr ⟨nofun, nofun, nofun⟩))

/-- R101: `F_LOST` becomes set by a tick only. -/
theorem BlockStep.sets_fLost {s : State} {b : Block} (h : BlockStep s b) (h0 : s.blk.fLost = false)
    (h1 : b.fLost = true) :
    s.nextEvent = .tick ∧ s.blk.ovp = true ∧ s.blk.cnt.toNat = maxCount s.params.width := by
  have hnew : ¬s.blk.fLost = true := by simp [h0]
  rcases h.fault_cases with ⟨he, rfl⟩ | ⟨-, rfl⟩ | ⟨echo, -, hm⟩ | hsame
  · exact ⟨he, ((s.blk.tick_faults _).1 h1).resolve_left hnew⟩
  · obtain ⟨hkeep, -⟩ := s.blk.takeOverflow_faults
    exact absurd (hkeep ▸ h1) hnew
  · obtain ⟨-, -, -, -, -, -, -, -, hkeep, -⟩ := hm.keeps
    exact absurd (hkeep ▸ h1) hnew
  · exact absurd (hsame.lost h1) hnew

/-- R102: `F_OVFWRAP` becomes set by the handler only. -/
theorem BlockStep.sets_fOvfwrap {s : State} {b : Block} (h : BlockStep s b) (h0 : s.blk.fOvfwrap = false)
    (h1 : b.fOvfwrap = true) : s.nextEvent = .ovh ∧ s.blk.ovf = 4294967295#32 := by
  have hnew : ¬s.blk.fOvfwrap = true := by simp [h0]
  rcases h.fault_cases with ⟨-, rfl⟩ | ⟨he, rfl⟩ | ⟨echo, -, hm⟩ | hsame
  · obtain ⟨-, hkeep, -⟩ := s.blk.tick_faults s.params.width
    exact absurd (hkeep ▸ h1) hnew
  · obtain ⟨-, hwrap, -⟩ := s.blk.takeOverflow_faults
    exact ⟨he, (hwrap h1).resolve_left hnew⟩
  · obtain ⟨-, -, -, -, -, -, -, -, -, hkeep⟩ := hm.keeps
    exact absurd (hkeep ▸ h1) hnew
  · exact absurd (hsame.ovfwrap h1) hnew

/-- R112: `F_RANGE` becomes set by a conversion of the sequencer only. -/
theorem BlockStep.sets_fRange {s : State} {b : Block} (h : BlockStep s b) (h0 : s.blk.fRange = false)
    (h1 : b.fRange = true) :
    (∃ echo, s.nextEvent = .seq echo) ∧ (s.blk.site = .ct ∨ s.blk.site = .done ∨ s.blk.site = .speed) := by
  have hnew : ¬s.blk.fRange = true := by simp [h0]
  rcases h.fault_cases with ⟨-, rfl⟩ | ⟨-, rfl⟩ | ⟨echo, he, hm⟩ | hsame
  · obtain ⟨-, -, hkeep⟩ := s.blk.tick_faults s.params.width
    exact absurd (hkeep ▸ h1) hnew
  · obtain ⟨-, -, hkeep⟩ := s.blk.takeOverflow_faults
    exact absurd (hkeep ▸ h1) hnew
  · exact ⟨⟨echo, he⟩, hm.fRange.resolve_left fun hkeep => hnew (hkeep ▸ h1)⟩
  · exact absurd (hsame.range h1) hnew

/-- Settles O30, bit by bit. -/
theorem faultBitsAreSetOnlyByTheirSteps : Obligations.FaultBitsAreSetOnlyByTheirSteps := by
  intro s t h
  obtain ⟨-, hb⟩ := step_block h
  rw [← maxCount_ite]
  refine ⟨hb.sets_fLost, fun h0 h1 => ?_, hb.sets_fRange⟩
  obtain ⟨he, hmax⟩ := hb.sets_fOvfwrap h0 h1
  exact ⟨he, congrArg BitVec.toNat hmax⟩

/-! ### The end of a command -/

/-- R106, R196: a move that ends the command goes to `S_IDLE` with a result. -/
theorem SeqMove.finishes {p : Params} {echo : Bool} {b b' : Block} (h : SeqMove p echo b b') (hb : b.busy = true)
    (hend : b'.busy = false) : b'.site = .idle ∧ b'.res ≠ .none := by
  rcases h.continues_or_finishes with ⟨hrun, -⟩ | ⟨-, hs, hres, -⟩
  · rw [hrun, hb] at hend
    cases hend
  · exact ⟨hs, hres⟩

/-- Settles O53: a move of the sequencer ends the command, and the invariants of the block it leaves at `S_IDLE` say that no
pulse and no paired read runs. -/
theorem commandEndsWithAResultAndTriggerLow : Obligations.CommandEndsWithAResultAndTriggerLow := by
  intro s t hl hr h hb hend
  obtain ⟨-, hstep⟩ := step_block h
  obtain ⟨echo, -, -, hm⟩ := hstep.ends_by_seqMove hr hb hend
  obtain ⟨hsite, hres⟩ := hm.finishes hb hend
  obtain ⟨-, -, -, -, -, -, hop, herr, -⟩ := hm.keeps
  have hlegal := hl.seqMove hb hm
  exact ⟨hres, hlegal.trig_of_idle hsite, hsite, hlegal.rp_of_idle hend, hop, herr⟩

end Sys2Proof.Machine

/-!
PROOFS. The statements of spec/70_reset_and_hazards.md: what reset restores and what it alone clears, the quiet block after
it, the parameters, and the writes that vanish.
-/
namespace Sys2Proof.Machine

/-! ### What only reset clears -/

/-- R200: what is set in `b`, of the things that only reset clears, is set in `b'` still. -/
structure Retains (b b' : Block) : Prop where
  cfgd : b.cfgd = true → b'.cfgd = true
  oie : b.oie = true → b'.oie = true
  running : b.ps ≠ .stopped → b'.ps ≠ .stopped
  lost : b.fLost = true → b'.fLost = true
  ovfwrap : b.fOvfwrap = true → b'.fOvfwrap = true
  range : b.fRange = true → b'.fRange = true

/-- A step that writes none of them retains them. -/
theorem Retains.of_eq {b b' : Block} (hc : b'.cfgd = b.cfgd) (ho : b'.oie = b.oie) (hp : b'.ps = b.ps)
    (hl : b'.fLost = b.fLost) (hw : b'.fOvfwrap = b.fOvfwrap) (hr : b'.fRange = b.fRange) : Retains b b' where
  cfgd := hc.trans
  oie := ho.trans
  running := hp.symm ▸ id
  lost := hl.trans
  ovfwrap := hw.trans
  range := hr.trans

/-- R100, R101: a tick adds to `F_LOST` at most. -/
theorem Retains.tick (w : CounterWidth) (b : Block) : Retains b (b.tick w) := by
  rcases b.tick_cases w with ⟨-, ht⟩ | ⟨-, ht⟩ <;> rw [ht]
  · exact ⟨id, id, id, fun hl => Bool.or_eq_true_iff.2 (.inl hl), id, id⟩
  · exact .of_eq rfl rfl rfl rfl rfl rfl

/-- R102: the handler adds to `F_OVFWRAP` at most. -/
theorem Retains.takeOverflow (b : Block) : Retains b b.takeOverflow := by
  rcases b.takeOverflow_cases with ⟨-, ht⟩ | ⟨-, ht⟩ <;> rw [ht]
  · exact ⟨id, id, id, id, fun _ => rfl, id⟩
  · exact .of_eq rfl rfl rfl rfl rfl rfl

/-- R112: a move of the sequencer adds to `F_RANGE` at most. -/
theorem SeqMove.keeps_fRange {p : Params} {echo : Bool} {b b' : Block} (h : SeqMove p echo b b')
    (hr : b.fRange = true) : b'.fRange = true := by
  cases h with
  | time | done | doneFirst | doneSecond | speed => exact Bool.or_eq_true_iff.2 (.inl hr)
  | _ => exact hr

/-- R112, R184: no move of the sequencer clears any of them. -/
theorem SeqMove.retains {p : Params} {echo : Bool} {b b' : Block} (h : SeqMove p echo b b') : Retains b b' := by
  obtain ⟨-, hps, hoie, hcfgd, -, -, -, -, hlost, hwrap⟩ := h.keeps
  exact ⟨hcfgd.trans, hoie.trans, hps.symm ▸ id, hlost.trans, hwrap.trans, h.keeps_fRange⟩

/-- R200: no step but reset clears any of them; CONFIGURE sets three of them. -/
theorem BlockStep.retains {s : State} {b : Block} (h : BlockStep s b) (hr : s.nextEvent ≠ .reset) :
    Retains s.blk b := by
  cases h with
  | tickOff | ovhOff | seqOff | read | ignored | reject | begin => exact .of_eq rfl rfl rfl rfl rfl rfl
  | tick => exact .tick _ _
  | ovh => exact .takeOverflow _
  | seq _ _ hm => exact hm.retains
  | @operand off v =>
    obtain ⟨c, d, t, ho⟩ := s.blk.writeOperand_frame off v
    rw [ho]
    exact .of_eq rfl rfl rfl rfl rfl rfl
  | config _ _ _ hp => exact ⟨fun _ => rfl, fun _ => rfl, fun _ => (prescalerOf_some hp).1, id, id, id⟩
  | reset he => exact absurd he hr

/-- Settles O2: reset writes the whole block, and everything else a step can do retains what reset clears. -/
theorem resetRestoresResetStateAndOnlyResetClears : Obligations.ResetRestoresResetStateAndOnlyResetClears := by
  refine ⟨fun s he => ⟨_, step_reset he, rfl⟩, fun s t hr h => ?_⟩
  obtain ⟨-, hb⟩ := step_block h
  obtain ⟨hcfgd, hoie, hrun, hlost, hwrap, hrange⟩ := hb.retains hr
  exact ⟨hcfgd, hoie, hrun, hlost, hwrap, hrange⟩

/-! ### After reset -/

/-- Settles O3, by the agent whose turn it is: in the reset block the three agents of the machine are disabled, a read of the
host leaves the block, and a reset writes it again. -/
theorem nothingRunsAfterResetUntilHostWrites : Obligations.NothingRunsAfterResetUntilHostWrites := by
  intro s hs hw
  obtain ⟨hseq, hovh, htick⟩ := disabledAgentsChangeNothing s
  have hquiet : s.advance.blk = State.reset.blk := s.advance_blk.trans hs
  cases he : s.nextEvent with
  | tick => exact ⟨_, htick he (by rw [hs]; rfl), hquiet⟩
  | ovh => exact ⟨_, hovh he (.inl (by rw [hs]; rfl)), hquiet⟩
  | seq echo => exact ⟨_, hseq echo he (.inl (by rw [hs]; rfl)), hquiet⟩
  | host a =>
    cases a with
    | read off => exact ⟨_, step_read he, hquiet⟩
    | write off v => exact absurd he (hw off v)
  | reset => exact ⟨_, step_reset he, rfl⟩

/-- Settles O4: everything a step can do, it does to the block. -/
theorem parametersNeverChange : Obligations.ParametersNeverChange := fun _ _ h => (step_block h).1

/-! ### Writes while a command runs -/

/-- Settles O19: the write does nothing, and consuming the input leaves the block, the parameters and the word last read. -/
theorem writesWhileBusyVanish : Obligations.WritesWhileBusyVanish := fun s off v he hb =>
  ⟨(step_write he).trans (hostWrite_busy off v (s.advance_blk.symm ▸ hb)), s.advance_blk, s.advance_params, s.advance_rdata⟩

end Sys2Proof.Machine
